-- ==== Sys2Proof/Word.lean ====
section
/-! DEFINITION. The word types of the machine (00_scope.md rule R7: bit 0 is the least significant bit). -/

namespace Sys2Proof

/-- The byte, the smallest unit of the address space (20_memory.md rule R30). -/
abbrev Byte := BitVec 8

/-- A 64-bit linear address (20_memory.md rule R30). -/
abbrev Addr := BitVec 64

/-- One vector register at its greatest width (00_scope.md rule R5, `MAXVL` at most 512). -/
abbrev VrWord := BitVec 512

end Sys2Proof
end

