-- ==== Sys2Proof/Config.lean ====
section
/-! DEFINITION. The parameters of the step (00_scope.md rule R5). The spec makes them arguments of every claim; the model
carries them as one plain record, `Params`, in the machine's state, which no step changes, so that a statement over all
states is a statement over all configurations. -/

namespace Sys2Proof

/-- `MODE` (10_state.md rule R20): 64-bit mode, or the 32-bit modes, whose decoding the spec does not give (rule R67). -/
inductive Mode where
  | mode64
  | mode32
deriving DecidableEq, Repr

/-- The seven CPUID feature flags of the opcode table (00_scope.md rule R2). -/
inductive Feature where
  | mmx
  | sse2
  | avx
  | avx2
  | avx512f
  | avx512vl
  | avx512bw
deriving DecidableEq, Repr

/-- `FEAT` (00_scope.md rule R5): which of the seven flags the processor reports. -/
structure Features where
  mmx : Bool
  sse2 : Bool
  avx : Bool
  avx2 : Bool
  avx512f : Bool
  avx512vl : Bool
  avx512bw : Bool
deriving DecidableEq, Repr

/-- The instruction classes the operating system enables (10_state.md rule R19). -/
inductive OsClass where
  | mmx
  | sse
  | avx
  | avx512
deriving DecidableEq, Repr

/-- `OSENABLED(class)` (00_scope.md rule R5): a predicate on the four classes, held as its four values. -/
structure OsEnabled where
  mmx : Bool
  sse : Bool
  avx : Bool
  avx512 : Bool
deriving DecidableEq, Repr

/-- `MAXVL` (00_scope.md rule R5): the width of a full vector register. -/
inductive MaxVl where
  | v128
  | v256
  | v512
deriving DecidableEq, Repr

/-- `KW` (00_scope.md rule R5): the width of an opmask register. -/
inductive MaskWidth where
  | k16
  | k64
deriving DecidableEq, Repr

/-- The linear-address width that decides which addresses are canonical (20_memory.md rule R39). -/
inductive LinearWidth where
  | la48
  | la57
deriving DecidableEq, Repr

/-- The two kinds of access of `Accessible` (00_scope.md rule R5). -/
inductive AccessKind where
  | data
  | fetch
deriving DecidableEq, Repr

/-- A run of `size` addresses from `base` that may not be read as data, or not fetched, or neither. -/
structure Region where
  base : Nat
  size : Nat
  noData : Bool
  noFetch : Bool
deriving DecidableEq, Repr

/-- The parameters of 00_scope.md rule R5. `denied` and `linear` together are `Accessible(addr, n, kind)`. -/
structure Params where
  mode : Mode
  maxvl : MaxVl
  /-- `NVR`, the number of vector registers; a register number not below it raises #UD (30_encoding.md rule R61). Any
  number is admitted (DESIGN CHOICE, log entry 31): below 16 in 64-bit mode too, where 10_state.md rule R10 has at least 16,
  and above the 32 registers the state holds, which acts as 32. -/
  nvr : Nat
  /-- `NMM`, the number of MMX registers (10_state.md rule R12). Any number is admitted (DESIGN CHOICE, log entry 31); above the
  8 registers the state holds it acts as 8. -/
  nmm : Nat
  /-- `NK`, the number of opmask registers (10_state.md rule R13). Any number is admitted, as with `nmm`. -/
  nk : Nat
  kw : MaskWidth
  feat : Features
  os : OsEnabled
  /-- `TS_SET`: CR0.TS is set (60_exceptions.md rule R153). -/
  tsSet : Bool
  /-- `X87_PENDING`: an unmasked x87 exception is pending (60_exceptions.md rule R153). -/
  x87Pending : Bool
  linear : LinearWidth
  denied : List Region
  /-- `FAULT_SUPPRESSION` (20_memory.md rule R47). -/
  faultSuppression : Bool
  /-- `AC_ENABLED` (20_memory.md rule R36). -/
  acEnabled : Bool
deriving DecidableEq, Repr

/-- `MAXVL` in bits. -/
def MaxVl.bits : MaxVl → Nat
  | .v128 => 128
  | .v256 => 256
  | .v512 => 512

/-- `KW` in bits. -/
def MaskWidth.bits : MaskWidth → Nat
  | .k16 => 16
  | .k64 => 64

/-- Whether a flag is in `FEAT`. -/
def Features.has (f : Features) : Feature → Bool
  | .mmx => f.mmx
  | .sse2 => f.sse2
  | .avx => f.avx
  | .avx2 => f.avx2
  | .avx512f => f.avx512f
  | .avx512vl => f.avx512vl
  | .avx512bw => f.avx512bw

/-- `OSENABLED(class)`. -/
def OsEnabled.enabled (o : OsEnabled) : OsClass → Bool
  | .mmx => o.mmx
  | .sse => o.sse
  | .avx => o.avx
  | .avx512 => o.avx512

/-- The default of `MAXVL` (00_scope.md rule R5): 512 with AVX512F, else 256 with AVX, else 128. -/
def Features.defaultMaxVl (f : Features) : MaxVl :=
  if f.avx512f then .v512 else if f.avx then .v256 else .v128

/-- The default of `NVR` (00_scope.md rule R5): in 64-bit mode 32 with AVX512F, else 16; in the 32-bit modes 8. -/
def Features.defaultNvr (f : Features) : Mode → Nat
  | .mode64 => if f.avx512f then 32 else 16
  | .mode32 => 8

/-- The default of `NMM` (00_scope.md rule R5; 10_state.md rule R12). -/
def defaultNmm : Nat := 8

/-- The default of `NK` (00_scope.md rule R5; 10_state.md rule R13). -/
def defaultNk : Nat := 8

/-- The default of `KW` (00_scope.md rule R5): 64 with AVX512BW, else 16. -/
def Features.defaultKw (f : Features) : MaskWidth := if f.avx512bw then .k64 else .k16

/-- The parameters with every default of 00_scope.md rule R5. The arguments are those that have none: `FEAT`, `OSENABLED`, and
`Accessible` as the linear-address width and the denied regions. -/
def Params.defaults (feat : Features) (os : OsEnabled) (linear : LinearWidth) (denied : List Region) : Params where
  mode := .mode64
  maxvl := feat.defaultMaxVl
  nvr := feat.defaultNvr .mode64
  nmm := defaultNmm
  nk := defaultNk
  kw := feat.defaultKw
  feat := feat
  os := os
  tsSet := false
  x87Pending := false
  linear := linear
  denied := denied
  faultSuppression := false
  acEnabled := false

/-- DESIGN CHOICE (log entry 5): the configuration the model's reset carries, the defaults of rule R5 with every feature
present, everything enabled and no address denied, as 95_test_vectors.md states for its vectors. DESIGN CHOICE (log entry 5):
linear addresses are 48 bits wide; 20_memory.md rule R39 names 48 and 57 and prefers neither. -/
def Params.launch : Params :=
  Params.defaults ⟨true, true, true, true, true, true, true⟩ ⟨true, true, true, true⟩ .la48 []

end Sys2Proof
end

