-- ==== Sys2Proof/Syntax.lean ====
section
/-! DEFINITION. The instructions: one constructor per row of the opcode table (30_encoding.md rule R52), in its order. An
instruction keeps every choice an encoding leaves open (whether a REX byte is present, VEX2 or VEX3, an ignored W bit, the
size of a displacement), because the instruction's length depends on it and the program counter advances by that length
(10_state.md rule R15). -/

namespace Sys2Proof

/-- The displacement of a memory operand, by ModRM.mod 00, 01, 10 (30_encoding.md rule R62). -/
inductive Disp where
  | none
  | d8 (v : BitVec 8)
  | d32 (v : BitVec 32)
deriving DecidableEq, Repr

/-- A memory operand (30_encoding.md rule R62). General registers are four bits, extension bit first. -/
inductive Mem where
  /-- No SIB byte: `GPR[base]` and a displacement. -/
  | base (d : Disp) (base : BitVec 4)
  /-- RIP-relative. The base extension bit names nothing here. -/
  | rip (d : BitVec 32)
  /-- A SIB byte with a base register; index 0100 means no index. -/
  | sib (d : Disp) (scale : BitVec 2) (index : BitVec 4) (base : BitVec 4)
  /-- A SIB byte with base 101 under mod 00: no base, a 32-bit displacement. The base extension bit names
  nothing here. -/
  | sibNoBase (scale : BitVec 2) (index : BitVec 4) (d : BitVec 32)
deriving DecidableEq, Repr

/-- The operand of ModRM.r/m: a register of `n` number bits, or memory (30_encoding.md rule R55). -/
inductive RegMem (n : Nat) where
  | reg (r : BitVec n)
  | mem (m : Mem)
deriving DecidableEq, Repr

/-- The data source of Op/En F: a register, memory, or one memory element broadcast (20_memory.md rule R35). -/
inductive Source where
  | reg (r : BitVec 5)
  | mem (m : Mem)
  | bcst (m : Mem)
deriving DecidableEq, Repr

/-- The two VEX prefix forms (30_encoding.md rule R56); VEX3 carries an ignored W bit. -/
inductive VexForm where
  | vex2
  | vex3 (w : Bool)
deriving DecidableEq, Repr

/-- `EVEX.aaa` and `EVEX.z` (40_shift_core.md rule R94). -/
structure Mask where
  k : BitVec 3
  z : Bool
deriving DecidableEq, Repr

/-- The prefix bits that 30_encoding.md rule R54 admits at their canonical value only. `vexB` and `evexB` have no line in
its table; the rule's text covers them (log entry 15). -/
inductive PrefixBit where
  | rexW
  | rexR
  | rexX
  | rexB
  | vexR
  | vexX
  | vexB
  | evexR
  | evexR'
  | evexX
  | evexB
deriving DecidableEq, Repr

/-- The 34 rows of the opcode table. Legacy forms carry whether a REX byte is present; operands stand destination first. -/
inductive Instr where
  -- legacy (41_legacy_mmx_sse2.md)
  | psrawMmRm (rex : Bool) (dst : BitVec 3) (cnt : RegMem 3)
  | psrawXmmRm (rex : Bool) (dst : BitVec 4) (cnt : RegMem 4)
  | psrawMmImm (rex : Bool) (dst : BitVec 3) (imm : BitVec 8)
  | psrawXmmImm (rex : Bool) (dst : BitVec 4) (imm : BitVec 8)
  | psradMmRm (rex : Bool) (dst : BitVec 3) (cnt : RegMem 3)
  | psradXmmRm (rex : Bool) (dst : BitVec 4) (cnt : RegMem 4)
  | psradMmImm (rex : Bool) (dst : BitVec 3) (imm : BitVec 8)
  | psradXmmImm (rex : Bool) (dst : BitVec 4) (imm : BitVec 8)
  -- VEX (42_vex_avx_avx2.md)
  | vpsrawXmmRm (form : VexForm) (dst src : BitVec 4) (cnt : RegMem 4)
  | vpsrawXmmImm (form : VexForm) (dst src : BitVec 4) (imm : BitVec 8)
  | vpsradXmmRm (form : VexForm) (dst src : BitVec 4) (cnt : RegMem 4)
  | vpsradXmmImm (form : VexForm) (dst src : BitVec 4) (imm : BitVec 8)
  | vpsrawYmmRm (form : VexForm) (dst src : BitVec 4) (cnt : RegMem 4)
  | vpsrawYmmImm (form : VexForm) (dst src : BitVec 4) (imm : BitVec 8)
  | vpsradYmmRm (form : VexForm) (dst src : BitVec 4) (cnt : RegMem 4)
  | vpsradYmmImm (form : VexForm) (dst src : BitVec 4) (imm : BitVec 8)
  -- EVEX VPSRAW (43_evex_vpsraw.md); `w` is the ignored W bit
  | evpsrawXmmRm (w : Bool) (mask : Mask) (dst src : BitVec 5) (cnt : RegMem 5)
  | evpsrawYmmRm (w : Bool) (mask : Mask) (dst src : BitVec 5) (cnt : RegMem 5)
  | evpsrawZmmRm (w : Bool) (mask : Mask) (dst src : BitVec 5) (cnt : RegMem 5)
  | evpsrawXmmImm (w : Bool) (mask : Mask) (dst : BitVec 5) (src : RegMem 5) (imm : BitVec 8)
  | evpsrawYmmImm (w : Bool) (mask : Mask) (dst : BitVec 5) (src : RegMem 5) (imm : BitVec 8)
  | evpsrawZmmImm (w : Bool) (mask : Mask) (dst : BitVec 5) (src : RegMem 5) (imm : BitVec 8)
  -- EVEX VPSRAD (44_evex_vpsrad.md)
  | evpsradXmmRm (mask : Mask) (dst src : BitVec 5) (cnt : RegMem 5)
  | evpsradYmmRm (mask : Mask) (dst src : BitVec 5) (cnt : RegMem 5)
  | evpsradZmmRm (mask : Mask) (dst src : BitVec 5) (cnt : RegMem 5)
  | evpsradXmmImm (mask : Mask) (dst : BitVec 5) (src : Source) (imm : BitVec 8)
  | evpsradYmmImm (mask : Mask) (dst : BitVec 5) (src : Source) (imm : BitVec 8)
  | evpsradZmmImm (mask : Mask) (dst : BitVec 5) (src : Source) (imm : BitVec 8)
  -- EVEX VPSRAQ (45_evex_vpsraq.md)
  | evpsraqXmmRm (mask : Mask) (dst src : BitVec 5) (cnt : RegMem 5)
  | evpsraqYmmRm (mask : Mask) (dst src : BitVec 5) (cnt : RegMem 5)
  | evpsraqZmmRm (mask : Mask) (dst src : BitVec 5) (cnt : RegMem 5)
  | evpsraqXmmImm (mask : Mask) (dst : BitVec 5) (src : Source) (imm : BitVec 8)
  | evpsraqYmmImm (mask : Mask) (dst : BitVec 5) (src : Source) (imm : BitVec 8)
  | evpsraqZmmImm (mask : Mask) (dst : BitVec 5) (src : Source) (imm : BitVec 8)
deriving DecidableEq, Repr

end Sys2Proof
end

