-- ==== Sys2Proof/WellFormed.lean ====
section
/-! DEFINITION. Which terms of `Instr` stand for an encoding. -/

namespace Sys2Proof

/-- A memory operand spells a ModRM/SIB form: r/m 100 means a SIB byte and r/m 101 (or SIB base 101) under mod 00 means a
32-bit displacement, whatever the extension bit is (30_encoding.md rule R62). -/
def Mem.wf : Mem → Bool
  | .base .none b => b.extractLsb' 0 3 != 4#3 && b.extractLsb' 0 3 != 5#3
  | .base _ b => b.extractLsb' 0 3 != 4#3
  | .rip _ => true
  | .sib .none _ _ b => b.extractLsb' 0 3 != 5#3
  | .sib _ _ _ _ => true
  | .sibNoBase _ _ _ => true

/-- The extension bit of the base register; 0 where there is no base register (30_encoding.md rules R54, R62). -/
def Mem.extB : Mem → Bool
  | .base _ b => b.getLsbD 3
  | .rip _ => false
  | .sib _ _ _ b => b.getLsbD 3
  | .sibNoBase _ _ _ => false

/-- The extension bit of the SIB index register; 0 where there is no SIB byte (30_encoding.md rule R54). -/
def Mem.extX : Mem → Bool
  | .base _ _ => false
  | .rip _ => false
  | .sib _ _ i _ => i.getLsbD 3
  | .sibNoBase _ i _ => i.getLsbD 3

def RegMem.memWf {n : Nat} : RegMem n → Bool
  | .reg _ => true
  | .mem m => m.wf

/-- The B bit an operand of ModRM.r/m needs; an MMX register needs none (10_state.md rule R12). -/
def RegMem.extB {n : Nat} : RegMem n → Bool
  | .reg r => r.getLsbD 3
  | .mem m => m.extB

def RegMem.extX {n : Nat} : RegMem n → Bool
  | .reg _ => false
  | .mem m => m.extX

def Source.memWf : Source → Bool
  | .reg _ => true
  | .mem m => m.wf
  | .bcst m => m.wf

/-- `z = 1` needs a writemask (30_encoding.md rule R61). -/
def Mask.wf (m : Mask) : Bool := !m.z || m.k != 0#3

/-- A legacy form with an extension bit set has a REX byte (30_encoding.md rule R53). -/
def legacyWf (rex r x b : Bool) : Bool := rex || (!r && !x && !b)

/-- VEX2 implies X = 0 and B = 0 (30_encoding.md rule R56). -/
def VexForm.admits (x b : Bool) : VexForm → Bool
  | .vex2 => !x && !b
  | .vex3 _ => true

/-- Every instruction the decoder answers is well formed, and every well-formed instruction has an encoding. -/
def Instr.wf : Instr → Bool
  | .psrawMmRm rex _ c => c.memWf && legacyWf rex false c.extX c.extB
  | .psrawXmmRm rex d c => c.memWf && legacyWf rex (d.getLsbD 3) c.extX c.extB
  | .psrawMmImm _ _ _ => true
  | .psrawXmmImm rex d _ => legacyWf rex false false (d.getLsbD 3)
  | .psradMmRm rex _ c => c.memWf && legacyWf rex false c.extX c.extB
  | .psradXmmRm rex d c => c.memWf && legacyWf rex (d.getLsbD 3) c.extX c.extB
  | .psradMmImm _ _ _ => true
  | .psradXmmImm rex d _ => legacyWf rex false false (d.getLsbD 3)
  | .vpsrawXmmRm f _ _ c => c.memWf && f.admits c.extX c.extB
  | .vpsrawXmmImm f _ s _ => f.admits false (s.getLsbD 3)
  | .vpsradXmmRm f _ _ c => c.memWf && f.admits c.extX c.extB
  | .vpsradXmmImm f _ s _ => f.admits false (s.getLsbD 3)
  | .vpsrawYmmRm f _ _ c => c.memWf && f.admits c.extX c.extB
  | .vpsrawYmmImm f _ s _ => f.admits false (s.getLsbD 3)
  | .vpsradYmmRm f _ _ c => c.memWf && f.admits c.extX c.extB
  | .vpsradYmmImm f _ s _ => f.admits false (s.getLsbD 3)
  | .evpsrawXmmRm _ m _ _ c => m.wf && c.memWf
  | .evpsrawYmmRm _ m _ _ c => m.wf && c.memWf
  | .evpsrawZmmRm _ m _ _ c => m.wf && c.memWf
  | .evpsrawXmmImm _ m _ c _ => m.wf && c.memWf
  | .evpsrawYmmImm _ m _ c _ => m.wf && c.memWf
  | .evpsrawZmmImm _ m _ c _ => m.wf && c.memWf
  | .evpsradXmmRm m _ _ c => m.wf && c.memWf
  | .evpsradYmmRm m _ _ c => m.wf && c.memWf
  | .evpsradZmmRm m _ _ c => m.wf && c.memWf
  | .evpsradXmmImm m _ c _ => m.wf && c.memWf
  | .evpsradYmmImm m _ c _ => m.wf && c.memWf
  | .evpsradZmmImm m _ c _ => m.wf && c.memWf
  | .evpsraqXmmRm m _ _ c => m.wf && c.memWf
  | .evpsraqYmmRm m _ _ c => m.wf && c.memWf
  | .evpsraqZmmRm m _ _ c => m.wf && c.memWf
  | .evpsraqXmmImm m _ c _ => m.wf && c.memWf
  | .evpsraqYmmImm m _ c _ => m.wf && c.memWf
  | .evpsraqZmmImm m _ c _ => m.wf && c.memWf

end Sys2Proof
end

