-- ==== Sys2Proof/Decode.lean ====
section
/-! DEFINITION. The decoder, total on any bytes (30_encoding.md rules R50 to R67), and after it the encoder. Both are
written from the layouts of rules R53, R55, R56, R57 and R62. -/

namespace Sys2Proof

/-! ### What decoding answers -/

/-- The outcome of decoding bytes in 64-bit mode. -/
inductive Decoded where
  /-- An instruction of the opcode table. -/
  | ok (i : Instr)
  /-- The bytes end before the instruction does. -/
  | more
  /-- No row matches (30_encoding.md rules R59, R60). -/
  | outOfScope
  /-- A bit that names nothing is not at its canonical value (30_encoding.md rule R54). -/
  | nonCanonical (bit : PrefixBit)
  /-- A prefix byte the model does not admit (30_encoding.md rule R59). -/
  | prefixNotAdmitted (byte : Byte)
  /-- An invalid encoding, #UD (30_encoding.md rules R59, R61). -/
  | ud
deriving DecidableEq, Repr

/-- The four opcode bytes of the table (30_encoding.md rule R50): word or doubleword/quadword lanes, count in ModRM.r/m or
in an immediate byte. -/
inductive Opcode where
  | e1
  | e2
  | i71
  | i72
deriving DecidableEq, Repr

/-- The operand ModRM.r/m names, its register number still without extension bits. -/
inductive RmField where
  | reg (rm : BitVec 3)
  | mem (m : Mem)
deriving DecidableEq, Repr

/-- The fields of a VEX prefix, register extension bits at their logical values (30_encoding.md rule R56). -/
structure VexBits where
  form : VexForm
  r : Bool
  x : Bool
  b : Bool
  vvvv : BitVec 4
  l : Bool
deriving DecidableEq, Repr

/-- The fields of an EVEX prefix, register extension bits at their logical values (30_encoding.md rule R57). `fixedOk`
says that P0 bit 3 is 0 and P1 bit 2 is 1. -/
structure EvexBits where
  r : Bool
  x : Bool
  b : Bool
  r' : Bool
  w : Bool
  vvvv : BitVec 4
  z : Bool
  ll : BitVec 2
  bc : Bool
  v' : Bool
  aaa : BitVec 3
  fixedOk : Bool
deriving DecidableEq, Repr

/-! ### Bits and bytes -/

/-- Bit `i` of a byte. -/
def bitOf (b : Byte) (i : Nat) : Bool := b.getLsbD i

/-- A register number with one extension bit in front (30_encoding.md rule R58). -/
def ext4 (e : Bool) (r : BitVec 3) : BitVec 4 := BitVec.ofBool e ++ r

/-- A register number with two extension bits in front (30_encoding.md rule R58). -/
def ext5 (e' e : Bool) (r : BitVec 3) : BitVec 5 := BitVec.ofBool e' ++ (BitVec.ofBool e ++ r)

/-- `V':vvvv` (30_encoding.md rule R58). -/
def extV (v' : Bool) (v : BitVec 4) : BitVec 5 := BitVec.ofBool v' ++ v

/-- A 32-bit displacement, low byte first (30_encoding.md rule R62). -/
def disp32Of (b0 b1 b2 b3 : Byte) : BitVec 32 := b3 ++ (b2 ++ (b1 ++ b0))

/-! ### Prefix bytes -/

/-- The legacy prefix bytes of 30_encoding.md rule R59. -/
def isLegacyByte (b : Byte) : Bool :=
  b == 0xF0#8 || b == 0xF2#8 || b == 0xF3#8 || b == 0x66#8 || b == 0x67#8 ||
  b == 0x26#8 || b == 0x2E#8 || b == 0x36#8 || b == 0x3E#8 || b == 0x64#8 || b == 0x65#8

/-- The prefixes the processor accepts and the model refuses: segment overrides and 67 (30_encoding.md rule R59). -/
def isRefusedByte (b : Byte) : Bool :=
  b == 0x67#8 || b == 0x26#8 || b == 0x2E#8 || b == 0x36#8 || b == 0x3E#8 || b == 0x64#8 || b == 0x65#8

/-- A REX byte is `0100WRXB` (30_encoding.md rule R53). -/
def isRex (b : Byte) : Bool := b.extractLsb' 4 4 == 4#4

/-- The prefix bytes in front of the escape or opcode byte, and the bytes from there on. -/
def splitPrefixes : List Byte → List Byte × List Byte
  | [] => ([], [])
  | b :: bs =>
    if isLegacyByte b || isRex b then (b :: (splitPrefixes bs).1, (splitPrefixes bs).2)
    else ([], b :: bs)

/-- The REX byte that counts: the one immediately before the escape byte (30_encoding.md rule R53). -/
def rexOf : List Byte → Option Byte
  | [] => none
  | [b] => if isRex b then some b else none
  | _ :: b :: bs => rexOf (b :: bs)

/-- The first prefix byte the model does not admit (30_encoding.md rule R59, decision D10): a segment override or 67, a
repeated legacy prefix, a 66 right after a REX byte, a REX byte that another prefix follows. `seen` is what came before. -/
def firstNotAdmitted (seen : List Byte) : List Byte → Option Byte
  | [] => none
  | [b] => if isRefusedByte b || (isLegacyByte b && seen.contains b) then some b else none
  | b :: c :: bs =>
    if isRefusedByte b || (isLegacyByte b && seen.contains b) then some b
    else if isRex b then some (if c == 0x66#8 then c else b)
    else firstNotAdmitted (b :: seen) (c :: bs)

/-! ### ModRM, SIB, displacement, immediate -/

def opcodeOf (b : Byte) : Option Opcode :=
  if b = 0xE1#8 then some .e1
  else if b = 0xE2#8 then some .e2
  else if b = 0x71#8 then some .i71
  else if b = 0x72#8 then some .i72
  else none

/-- Opcodes 71 and 72 have an immediate byte and ModRM.reg as an opcode extension (30_encoding.md rule R50). -/
def Opcode.isImm : Opcode → Bool
  | .e1 => false
  | .e2 => false
  | .i71 => true
  | .i72 => true

/-- The displacement that ModRM.mod asks for (30_encoding.md rule R62); `none` where the bytes end too early. -/
def takeDisp (mod : BitVec 2) (bs : List Byte) : Option (Disp × List Byte) :=
  if mod = 0#2 then some (.none, bs)
  else if mod = 1#2 then
    match bs with
    | b :: r => some (.d8 b, r)
    | [] => none
  else
    match bs with
    | b0 :: b1 :: b2 :: b3 :: r => some (.d32 (disp32Of b0 b1 b2 b3), r)
    | _ => none

/-- Four displacement bytes (30_encoding.md rule R62). -/
def takeDisp32 : List Byte → Option (BitVec 32 × List Byte)
  | b0 :: b1 :: b2 :: b3 :: r => some (disp32Of b0 b1 b2 b3, r)
  | _ => none

/-- The SIB byte and what follows it: scale 7:6, index 5:3, base 2:0 (30_encoding.md rule R62). -/
def parseSib (x b : Bool) (mod : BitVec 2) : List Byte → Option (Mem × List Byte)
  | [] => none
  | sib :: bs =>
    if mod = 0#2 ∧ sib.extractLsb' 0 3 = 5#3 then
      match takeDisp32 bs with
      | some (d, r) => some (.sibNoBase (sib.extractLsb' 6 2) (ext4 x (sib.extractLsb' 3 3)) d, r)
      | none => none
    else
      match takeDisp mod bs with
      | some (d, r) =>
        some (.sib d (sib.extractLsb' 6 2) (ext4 x (sib.extractLsb' 3 3)) (ext4 b (sib.extractLsb' 0 3)), r)
      | none => none

/-- The memory operand of a ModRM byte with `mod ≠ 11` (30_encoding.md rule R62). -/
def parseMem (x b : Bool) (mod : BitVec 2) (rm : BitVec 3) (bs : List Byte) : Option (Mem × List Byte) :=
  if rm = 4#3 then parseSib x b mod bs
  else if mod = 0#2 ∧ rm = 5#3 then
    match takeDisp32 bs with
    | some (d, r) => some (.rip d, r)
    | none => none
  else
    match takeDisp mod bs with
    | some (d, r) => some (.base d (ext4 b rm), r)
    | none => none

/-- The r/m operand: a register when `mod = 11`, else memory (30_encoding.md rule R55). -/
def parseRm (x b : Bool) (modrm : Byte) (bs : List Byte) : Option (RmField × List Byte) :=
  if modrm.extractLsb' 6 2 = 3#2 then some (.reg (modrm.extractLsb' 0 3), bs)
  else
    match parseMem x b (modrm.extractLsb' 6 2) (modrm.extractLsb' 0 3) bs with
    | some (m, r) => some (.mem m, r)
    | none => none

/-- The immediate byte, where the opcode has one; 0 where it has none (30_encoding.md rule R64). -/
def takeImm (o : Opcode) : List Byte → Option Byte
  | [] => if o.isImm then none else some 0#8
  | b :: _ => if o.isImm then some b else some 0#8

/-- From the opcode byte on, the same in all classes: opcode, ModRM (with reg = 100 on the immediate forms), SIB,
displacement, immediate. No byte is asked for once the bytes so far exclude every row (rule R60). -/
def decodeBody (x b : Bool) (verdict : Opcode → BitVec 3 → RmField → Byte → Decoded) : List Byte → Decoded
  | [] => .more
  | op :: bs =>
    match opcodeOf op with
    | none => .outOfScope
    | some o =>
      match bs with
      | [] => .more
      | modrm :: rest =>
        if o.isImm = true ∧ modrm.extractLsb' 3 3 ≠ 4#3 then .outOfScope
        else
          match parseRm x b modrm rest with
          | none => .more
          | some (rm, tail) =>
            match takeImm o tail with
            | none => .more
            | some imm => verdict o (modrm.extractLsb' 3 3) rm imm

def Mem.hasSib : Mem → Bool
  | .base _ _ => false
  | .rip _ => false
  | .sib _ _ _ _ => true
  | .sibNoBase _ _ _ => true

/-- RIP-relative operands and a SIB byte with base 101 under mod 00 have no base register (30_encoding.md rule R62). -/
def Mem.lacksBase : Mem → Bool
  | .base _ _ => false
  | .rip _ => true
  | .sib _ _ _ _ => false
  | .sibNoBase _ _ _ => true

/-- Whether the X bit names a SIB index (30_encoding.md rule R54). -/
def RmField.hasSib : RmField → Bool
  | .reg _ => false
  | .mem m => m.hasSib

/-- Whether the B bit names neither a register operand nor a base register (30_encoding.md rule R54; log entry 15). -/
def RmField.lacksBase : RmField → Bool
  | .reg _ => false
  | .mem m => m.lacksBase

def RmField.isReg : RmField → Bool
  | .reg _ => true
  | .mem _ => false

/-- An MMX register number is the three bits of ModRM.r/m alone (10_state.md rule R12). -/
def RmField.mm : RmField → RegMem 3
  | .reg rm => .reg rm
  | .mem m => .mem m

/-- `B:r/m` (30_encoding.md rule R58). -/
def RmField.xmm (b : Bool) : RmField → RegMem 4
  | .reg rm => .reg (ext4 b rm)
  | .mem m => .mem m

/-- `X:B:r/m` (30_encoding.md rule R58). -/
def RmField.zmm (x b : Bool) : RmField → RegMem 5
  | .reg rm => .reg (ext5 x b rm)
  | .mem m => .mem m

/-- The source of Op/En F: `b = 1` with a memory operand selects the broadcast (20_memory.md rule R35). -/
def RmField.source (x b bc : Bool) : RmField → Source
  | .reg rm => .reg (ext5 x b rm)
  | .mem m => if bc then .bcst m else .mem m

/-! ### Legacy class -/

/-- 30_encoding.md rule R54, the REX lines. `mmx` says the row is an MMX row. -/
def legacyNonCanonical (mmx : Bool) (rex : Byte) (o : Opcode) (rm : RmField) : Option PrefixBit :=
  if bitOf rex 3 then some .rexW
  else if bitOf rex 2 && (mmx || o.isImm) then some .rexR
  else if bitOf rex 1 && !rm.hasSib then some .rexX
  else if bitOf rex 0 && mmx && (o.isImm || rm.isReg) then some .rexB
  else if bitOf rex 0 && rm.lacksBase then some .rexB
  else none

/-- The legacy row of the opcode and the 66 prefix (30_encoding.md rule R65); `mod ≠ 11` on the immediate forms is #UD. -/
def legacyRow (p66 rex r b : Bool) (o : Opcode) (reg : BitVec 3) (rm : RmField) (imm : Byte) : Decoded :=
  match o, p66 with
  | .e1, false => .ok (.psrawMmRm rex reg rm.mm)
  | .e1, true => .ok (.psrawXmmRm rex (ext4 r reg) (rm.xmm b))
  | .e2, false => .ok (.psradMmRm rex reg rm.mm)
  | .e2, true => .ok (.psradXmmRm rex (ext4 r reg) (rm.xmm b))
  | .i71, false => match rm with
    | .reg n => .ok (.psrawMmImm rex n imm)
    | .mem _ => .ud
  | .i71, true => match rm with
    | .reg n => .ok (.psrawXmmImm rex (ext4 b n) imm)
    | .mem _ => .ud
  | .i72, false => match rm with
    | .reg n => .ok (.psradMmImm rex n imm)
    | .mem _ => .ud
  | .i72, true => match rm with
    | .reg n => .ok (.psradXmmImm rex (ext4 b n) imm)
    | .mem _ => .ud

/-- The verdict on a legacy encoding, checks in the order of 40_shift_core.md rule R97 step 1. -/
def legacyVerdict (pre : List Byte) (o : Opcode) (reg : BitVec 3) (rm : RmField) (imm : Byte) : Decoded :=
  match legacyNonCanonical (!pre.contains 0x66#8) ((rexOf pre).getD 0#8) o rm with
  | some bit => .nonCanonical bit
  | none =>
    match firstNotAdmitted [] pre with
    | some byte => .prefixNotAdmitted byte
    | none =>
      if pre.contains 0xF0#8 then .ud
      else legacyRow (pre.contains 0x66#8) (rexOf pre).isSome (bitOf ((rexOf pre).getD 0#8) 2)
        (bitOf ((rexOf pre).getD 0#8) 0) o reg rm imm

/-- After the escape byte 0F; F2 or F3 in front makes it no row of the table (30_encoding.md rule R59). -/
def decodeLegacy (pre : List Byte) (bs : List Byte) : Decoded :=
  if pre.contains 0xF2#8 || pre.contains 0xF3#8 then .outOfScope
  else decodeBody (bitOf ((rexOf pre).getD 0#8) 1) (bitOf ((rexOf pre).getD 0#8) 0) (legacyVerdict pre) bs

/-! ### VEX class -/

/-- 30_encoding.md rule R54, the VEX lines. -/
def vexNonCanonical (v : VexBits) (o : Opcode) (rm : RmField) : Option PrefixBit :=
  if v.r && o.isImm then some .vexR
  else if v.x && !rm.hasSib then some .vexX
  else if v.b && rm.lacksBase then some .vexB
  else none

/-- The VEX row of the opcode and L (30_encoding.md rule R65); W is ignored. -/
def vexRow (v : VexBits) (o : Opcode) (reg : BitVec 3) (rm : RmField) (imm : Byte) : Decoded :=
  match o, v.l with
  | .e1, false => .ok (.vpsrawXmmRm v.form (ext4 v.r reg) v.vvvv (rm.xmm v.b))
  | .e2, false => .ok (.vpsradXmmRm v.form (ext4 v.r reg) v.vvvv (rm.xmm v.b))
  | .e1, true => .ok (.vpsrawYmmRm v.form (ext4 v.r reg) v.vvvv (rm.xmm v.b))
  | .e2, true => .ok (.vpsradYmmRm v.form (ext4 v.r reg) v.vvvv (rm.xmm v.b))
  | .i71, false => match rm with
    | .reg n => .ok (.vpsrawXmmImm v.form v.vvvv (ext4 v.b n) imm)
    | .mem _ => .ud
  | .i72, false => match rm with
    | .reg n => .ok (.vpsradXmmImm v.form v.vvvv (ext4 v.b n) imm)
    | .mem _ => .ud
  | .i71, true => match rm with
    | .reg n => .ok (.vpsrawYmmImm v.form v.vvvv (ext4 v.b n) imm)
    | .mem _ => .ud
  | .i72, true => match rm with
    | .reg n => .ok (.vpsradYmmImm v.form v.vvvv (ext4 v.b n) imm)
    | .mem _ => .ud

/-- The verdict on a VEX encoding: any prefix in front is #UD (30_encoding.md rule R59). -/
def vexVerdict (pre : List Byte) (v : VexBits) (o : Opcode) (reg : BitVec 3) (rm : RmField) (imm : Byte) : Decoded :=
  match vexNonCanonical v o rm with
  | some bit => .nonCanonical bit
  | none =>
    match firstNotAdmitted [] pre with
    | some byte => .prefixNotAdmitted byte
    | none => if !pre.isEmpty then .ud else vexRow v o reg rm imm

def vex2Bits (v1 : Byte) : VexBits where
  form := .vex2
  r := !bitOf v1 7
  x := false
  b := false
  vvvv := ~~~(v1.extractLsb' 3 4)
  l := bitOf v1 2

def vex3Bits (v1 v2 : Byte) : VexBits where
  form := .vex3 (bitOf v2 7)
  r := !bitOf v1 7
  x := !bitOf v1 6
  b := !bitOf v1 5
  vvvv := ~~~(v2.extractLsb' 3 4)
  l := bitOf v2 2

/-- After the byte C5; `pp` must be 01 (30_encoding.md rule R56). -/
def decodeVex2 (pre : List Byte) : List Byte → Decoded
  | [] => .more
  | v1 :: bs =>
    if v1.extractLsb' 0 2 ≠ 1#2 then .outOfScope
    else decodeBody false false (vexVerdict pre (vex2Bits v1)) bs

/-- After the byte C4; `mmmmm` must be 00001 and `pp` 01 (30_encoding.md rule R56). -/
def decodeVex3 (pre : List Byte) : List Byte → Decoded
  | [] => .more
  | v1 :: bs =>
    if v1.extractLsb' 0 5 ≠ 1#5 then .outOfScope
    else
      match bs with
      | [] => .more
      | v2 :: rest =>
        if v2.extractLsb' 0 2 ≠ 1#2 then .outOfScope
        else decodeBody (!bitOf v1 6) (!bitOf v1 5) (vexVerdict pre (vex3Bits v1 v2)) rest

/-! ### EVEX class -/

/-- 30_encoding.md rule R54, the EVEX lines. -/
def evexNonCanonical (e : EvexBits) (o : Opcode) (rm : RmField) : Option PrefixBit :=
  if e.r && o.isImm then some .evexR
  else if e.r' && o.isImm then some .evexR'
  else if e.x && !rm.isReg && !rm.hasSib then some .evexX
  else if e.b && rm.lacksBase then some .evexB
  else none

/-- The EVEX lines of 30_encoding.md rule R61. -/
def evexInvalid (e : EvexBits) (o : Opcode) (rm : RmField) : Bool :=
  !e.fixedOk || e.ll == 3#2 || (e.bc && (rm.isReg || o != .i72)) || (e.z && e.aaa == 0#3)

/-- The EVEX row of the opcode, W and L'L (30_encoding.md rule R65). -/
def evexRow (e : EvexBits) (o : Opcode) (reg : BitVec 3) (rm : RmField) (imm : Byte) : Decoded :=
  match o with
  | .e1 =>
    if e.ll = 0#2 then .ok (.evpsrawXmmRm e.w ⟨e.aaa, e.z⟩ (ext5 e.r' e.r reg) (extV e.v' e.vvvv) (rm.zmm e.x e.b))
    else if e.ll = 1#2 then
      .ok (.evpsrawYmmRm e.w ⟨e.aaa, e.z⟩ (ext5 e.r' e.r reg) (extV e.v' e.vvvv) (rm.zmm e.x e.b))
    else .ok (.evpsrawZmmRm e.w ⟨e.aaa, e.z⟩ (ext5 e.r' e.r reg) (extV e.v' e.vvvv) (rm.zmm e.x e.b))
  | .i71 =>
    if e.ll = 0#2 then .ok (.evpsrawXmmImm e.w ⟨e.aaa, e.z⟩ (extV e.v' e.vvvv) (rm.zmm e.x e.b) imm)
    else if e.ll = 1#2 then .ok (.evpsrawYmmImm e.w ⟨e.aaa, e.z⟩ (extV e.v' e.vvvv) (rm.zmm e.x e.b) imm)
    else .ok (.evpsrawZmmImm e.w ⟨e.aaa, e.z⟩ (extV e.v' e.vvvv) (rm.zmm e.x e.b) imm)
  | .e2 =>
    if e.w then
      if e.ll = 0#2 then .ok (.evpsraqXmmRm ⟨e.aaa, e.z⟩ (ext5 e.r' e.r reg) (extV e.v' e.vvvv) (rm.zmm e.x e.b))
      else if e.ll = 1#2 then
        .ok (.evpsraqYmmRm ⟨e.aaa, e.z⟩ (ext5 e.r' e.r reg) (extV e.v' e.vvvv) (rm.zmm e.x e.b))
      else .ok (.evpsraqZmmRm ⟨e.aaa, e.z⟩ (ext5 e.r' e.r reg) (extV e.v' e.vvvv) (rm.zmm e.x e.b))
    else
      if e.ll = 0#2 then .ok (.evpsradXmmRm ⟨e.aaa, e.z⟩ (ext5 e.r' e.r reg) (extV e.v' e.vvvv) (rm.zmm e.x e.b))
      else if e.ll = 1#2 then
        .ok (.evpsradYmmRm ⟨e.aaa, e.z⟩ (ext5 e.r' e.r reg) (extV e.v' e.vvvv) (rm.zmm e.x e.b))
      else .ok (.evpsradZmmRm ⟨e.aaa, e.z⟩ (ext5 e.r' e.r reg) (extV e.v' e.vvvv) (rm.zmm e.x e.b))
  | .i72 =>
    if e.w then
      if e.ll = 0#2 then .ok (.evpsraqXmmImm ⟨e.aaa, e.z⟩ (extV e.v' e.vvvv) (rm.source e.x e.b e.bc) imm)
      else if e.ll = 1#2 then .ok (.evpsraqYmmImm ⟨e.aaa, e.z⟩ (extV e.v' e.vvvv) (rm.source e.x e.b e.bc) imm)
      else .ok (.evpsraqZmmImm ⟨e.aaa, e.z⟩ (extV e.v' e.vvvv) (rm.source e.x e.b e.bc) imm)
    else
      if e.ll = 0#2 then .ok (.evpsradXmmImm ⟨e.aaa, e.z⟩ (extV e.v' e.vvvv) (rm.source e.x e.b e.bc) imm)
      else if e.ll = 1#2 then .ok (.evpsradYmmImm ⟨e.aaa, e.z⟩ (extV e.v' e.vvvv) (rm.source e.x e.b e.bc) imm)
      else .ok (.evpsradZmmImm ⟨e.aaa, e.z⟩ (extV e.v' e.vvvv) (rm.source e.x e.b e.bc) imm)

/-- The verdict on an EVEX encoding. -/
def evexVerdict (pre : List Byte) (e : EvexBits) (o : Opcode) (reg : BitVec 3) (rm : RmField) (imm : Byte) : Decoded :=
  match evexNonCanonical e o rm with
  | some bit => .nonCanonical bit
  | none =>
    match firstNotAdmitted [] pre with
    | some byte => .prefixNotAdmitted byte
    | none => if !pre.isEmpty || evexInvalid e o rm then .ud else evexRow e o reg rm imm

def evexBits (p0 p1 p2 : Byte) : EvexBits where
  r := !bitOf p0 7
  x := !bitOf p0 6
  b := !bitOf p0 5
  r' := !bitOf p0 4
  w := bitOf p1 7
  vvvv := ~~~(p1.extractLsb' 3 4)
  z := bitOf p2 7
  ll := p2.extractLsb' 5 2
  bc := bitOf p2 4
  v' := !bitOf p2 3
  aaa := p2.extractLsb' 0 3
  fixedOk := !bitOf p0 3 && bitOf p1 2

/-- After the byte 62; `mmm` must be 001 and `pp` 01 (30_encoding.md rule R57). -/
def decodeEvex (pre : List Byte) : List Byte → Decoded
  | [] => .more
  | p0 :: bs =>
    if p0.extractLsb' 0 3 ≠ 1#3 then .outOfScope
    else
      match bs with
      | [] => .more
      | p1 :: cs =>
        if p1.extractLsb' 0 2 ≠ 1#2 then .outOfScope
        else
          match cs with
          | [] => .more
          | p2 :: rest => decodeBody (!bitOf p0 6) (!bitOf p0 5) (evexVerdict pre (evexBits p0 p1 p2)) rest

/-- Decoding in 64-bit mode (30_encoding.md rule R65): the class is that of the first byte that is no prefix byte; in
64-bit mode C5, C4 and 62 always start a VEX or EVEX prefix. -/
def decodeAfter (pre : List Byte) : List Byte → Decoded
  | [] => .more
  | b :: bs =>
    if b = 0x0F#8 then decodeLegacy pre bs
    else if b = 0xC5#8 then decodeVex2 pre bs
    else if b = 0xC4#8 then decodeVex3 pre bs
    else if b = 0x62#8 then decodeEvex pre bs
    else .outOfScope

/-- The decoder: total, the first matching verdict, bytes after the instruction ignored. -/
def decode (bs : List Byte) : Decoded := decodeAfter (splitPrefixes bs).1 (splitPrefixes bs).2

/-! ### The encoder -/

/-- What a ModRM.r/m operand puts into an encoding: `mod`, `r/m`, the bits X and B, the bytes after ModRM. -/
structure RmCode where
  mod : BitVec 2
  rm : BitVec 3
  x : Bool
  b : Bool
  tail : List Byte
deriving DecidableEq, Repr

def Disp.mod : Disp → BitVec 2
  | .none => 0#2
  | .d8 _ => 1#2
  | .d32 _ => 2#2

/-- Four bytes, low byte first (30_encoding.md rule R62). -/
def disp32Bytes (d : BitVec 32) : List Byte :=
  [d.extractLsb' 0 8, d.extractLsb' 8 8, d.extractLsb' 16 8, d.extractLsb' 24 8]

def Disp.bytes : Disp → List Byte
  | .none => []
  | .d8 v => [v]
  | .d32 v => disp32Bytes v

def sibByte (scale : BitVec 2) (index base : BitVec 3) : Byte := scale ++ (index ++ base)

def Mem.code : Mem → RmCode
  | .base d b => ⟨d.mod, b.extractLsb' 0 3, false, b.getLsbD 3, d.bytes⟩
  | .rip d => ⟨0#2, 5#3, false, false, disp32Bytes d⟩
  | .sib d s i b =>
    ⟨d.mod, 4#3, i.getLsbD 3, b.getLsbD 3, sibByte s (i.extractLsb' 0 3) (b.extractLsb' 0 3) :: d.bytes⟩
  | .sibNoBase s i d => ⟨0#2, 4#3, i.getLsbD 3, false, sibByte s (i.extractLsb' 0 3) 5#3 :: disp32Bytes d⟩

/-- Bits 2:0 of a register number go to r/m, bit 3 to B, bit 4 to X (30_encoding.md rule R58). -/
def RegMem.code {n : Nat} : RegMem n → RmCode
  | .reg r => ⟨3#2, r.extractLsb' 0 3, r.getLsbD 4, r.getLsbD 3, []⟩
  | .mem m => m.code

def Source.code : Source → RmCode
  | .reg r => ⟨3#2, r.extractLsb' 0 3, r.getLsbD 4, r.getLsbD 3, []⟩
  | .mem m => m.code
  | .bcst m => m.code

def Source.isBcst : Source → Bool
  | .reg _ => false
  | .mem _ => false
  | .bcst _ => true

def Opcode.byte : Opcode → Byte
  | .e1 => 0xE1#8
  | .e2 => 0xE2#8
  | .i71 => 0x71#8
  | .i72 => 0x72#8

/-- Opcode, ModRM, SIB and displacement, immediate (30_encoding.md rule R50). -/
def bodyBytes (o : Opcode) (reg : BitVec 3) (c : RmCode) (imm : List Byte) : List Byte :=
  o.byte :: (c.mod ++ (reg ++ c.rm) : BitVec 8) :: (c.tail ++ imm)

/-- The REX byte `0100 0RXB` (30_encoding.md rule R53), W at its canonical value. -/
def rexByte (r x b : Bool) : Byte :=
  4#4 ++ (0#1 ++ (BitVec.ofBool r ++ (BitVec.ofBool x ++ BitVec.ofBool b)))

def encodeLegacy (p66 rex r : Bool) (o : Opcode) (reg : BitVec 3) (c : RmCode) (imm : List Byte) : List Byte :=
  (if p66 then [0x66#8] else []) ++ (if rex then [rexByte r c.x c.b] else []) ++ 0x0F#8 :: bodyBytes o reg c imm

/-- The VEX prefix (30_encoding.md rule R56): register bits inverted, `pp = 01`, `mmmmm = 00001`. -/
def encodeVex (f : VexForm) (l r : Bool) (vvvv : BitVec 4) (o : Opcode) (reg : BitVec 3) (c : RmCode)
    (imm : List Byte) : List Byte :=
  match f with
  | .vex2 =>
    0xC5#8 :: (BitVec.ofBool (!r) ++ (~~~vvvv ++ (BitVec.ofBool l ++ 1#2)) : BitVec 8) :: bodyBytes o reg c imm
  | .vex3 w =>
    0xC4#8 :: (BitVec.ofBool (!r) ++ (BitVec.ofBool (!c.x) ++ (BitVec.ofBool (!c.b) ++ 1#5)) : BitVec 8) ::
      (BitVec.ofBool w ++ (~~~vvvv ++ (BitVec.ofBool l ++ 1#2)) : BitVec 8) :: bodyBytes o reg c imm

/-- The EVEX prefix (30_encoding.md rule R57): `reg5` and `v5` are five-bit register numbers, stored inverted. -/
def encodeEvex (ll : BitVec 2) (w bc : Bool) (m : Mask) (r' r : Bool) (v5 : BitVec 5) (o : Opcode) (reg : BitVec 3)
    (c : RmCode) (imm : List Byte) : List Byte :=
  0x62#8 ::
    (BitVec.ofBool (!r) ++ (BitVec.ofBool (!c.x) ++ (BitVec.ofBool (!c.b) ++ (BitVec.ofBool (!r') ++ 1#4))) : BitVec 8) ::
    (BitVec.ofBool w ++ (~~~(v5.extractLsb' 0 4) ++ (1#1 ++ 1#2)) : BitVec 8) ::
    (BitVec.ofBool m.z ++ (ll ++ (BitVec.ofBool bc ++ (BitVec.ofBool (!v5.getLsbD 4) ++ m.k))) : BitVec 8) ::
    bodyBytes o reg c imm

/-- A legacy form with its register in ModRM.reg (Op/En A). -/
def encodeLegacyRm (p66 rex : Bool) (o : Opcode) (dst : BitVec 4) (c : RmCode) : List Byte :=
  encodeLegacy p66 rex (dst.getLsbD 3) o (dst.extractLsb' 0 3) c []

/-- A legacy form with its register in ModRM.r/m and reg = 100 (Op/En B). -/
def encodeLegacyImm (p66 rex : Bool) (o : Opcode) (dst : BitVec 4) (imm : Byte) : List Byte :=
  encodeLegacy p66 rex false o 4#3 (RegMem.code (.reg dst)) [imm]

/-- Op/En C. -/
def encodeVexRm (f : VexForm) (l : Bool) (o : Opcode) (dst src : BitVec 4) (cnt : RegMem 4) : List Byte :=
  encodeVex f l (dst.getLsbD 3) src o (dst.extractLsb' 0 3) cnt.code []

/-- Op/En D: the destination is in `vvvv`. -/
def encodeVexImm (f : VexForm) (l : Bool) (o : Opcode) (dst src : BitVec 4) (imm : Byte) : List Byte :=
  encodeVex f l false dst o 4#3 (RegMem.code (.reg src)) [imm]

/-- Op/En G. -/
def encodeEvexRm (ll : BitVec 2) (w : Bool) (o : Opcode) (m : Mask) (dst src : BitVec 5) (cnt : RegMem 5) : List Byte :=
  encodeEvex ll w false m (dst.getLsbD 4) (dst.getLsbD 3) src o (dst.extractLsb' 0 3) cnt.code []

/-- Op/En E and F: the destination is in `V':vvvv`. -/
def encodeEvexImm (ll : BitVec 2) (w bc : Bool) (o : Opcode) (m : Mask) (dst : BitVec 5) (src : RmCode) (imm : Byte) :
    List Byte :=
  encodeEvex ll w bc m false false dst o 4#3 src [imm]

/-- The bytes of an instruction (30_encoding.md rules R50 to R58). -/
def encode : Instr → List Byte
  | .psrawMmRm rex d c => encodeLegacyRm false rex .e1 (d.setWidth 4) c.code
  | .psrawXmmRm rex d c => encodeLegacyRm true rex .e1 d c.code
  | .psrawMmImm rex d i => encodeLegacyImm false rex .i71 (d.setWidth 4) i
  | .psrawXmmImm rex d i => encodeLegacyImm true rex .i71 d i
  | .psradMmRm rex d c => encodeLegacyRm false rex .e2 (d.setWidth 4) c.code
  | .psradXmmRm rex d c => encodeLegacyRm true rex .e2 d c.code
  | .psradMmImm rex d i => encodeLegacyImm false rex .i72 (d.setWidth 4) i
  | .psradXmmImm rex d i => encodeLegacyImm true rex .i72 d i
  | .vpsrawXmmRm f d s c => encodeVexRm f false .e1 d s c
  | .vpsrawXmmImm f d s i => encodeVexImm f false .i71 d s i
  | .vpsradXmmRm f d s c => encodeVexRm f false .e2 d s c
  | .vpsradXmmImm f d s i => encodeVexImm f false .i72 d s i
  | .vpsrawYmmRm f d s c => encodeVexRm f true .e1 d s c
  | .vpsrawYmmImm f d s i => encodeVexImm f true .i71 d s i
  | .vpsradYmmRm f d s c => encodeVexRm f true .e2 d s c
  | .vpsradYmmImm f d s i => encodeVexImm f true .i72 d s i
  | .evpsrawXmmRm w m d s c => encodeEvexRm 0#2 w .e1 m d s c
  | .evpsrawYmmRm w m d s c => encodeEvexRm 1#2 w .e1 m d s c
  | .evpsrawZmmRm w m d s c => encodeEvexRm 2#2 w .e1 m d s c
  | .evpsrawXmmImm w m d s i => encodeEvexImm 0#2 w false .i71 m d s.code i
  | .evpsrawYmmImm w m d s i => encodeEvexImm 1#2 w false .i71 m d s.code i
  | .evpsrawZmmImm w m d s i => encodeEvexImm 2#2 w false .i71 m d s.code i
  | .evpsradXmmRm m d s c => encodeEvexRm 0#2 false .e2 m d s c
  | .evpsradYmmRm m d s c => encodeEvexRm 1#2 false .e2 m d s c
  | .evpsradZmmRm m d s c => encodeEvexRm 2#2 false .e2 m d s c
  | .evpsradXmmImm m d s i => encodeEvexImm 0#2 false s.isBcst .i72 m d s.code i
  | .evpsradYmmImm m d s i => encodeEvexImm 1#2 false s.isBcst .i72 m d s.code i
  | .evpsradZmmImm m d s i => encodeEvexImm 2#2 false s.isBcst .i72 m d s.code i
  | .evpsraqXmmRm m d s c => encodeEvexRm 0#2 true .e2 m d s c
  | .evpsraqYmmRm m d s c => encodeEvexRm 1#2 true .e2 m d s c
  | .evpsraqZmmRm m d s c => encodeEvexRm 2#2 true .e2 m d s c
  | .evpsraqXmmImm m d s i => encodeEvexImm 0#2 true s.isBcst .i72 m d s.code i
  | .evpsraqYmmImm m d s i => encodeEvexImm 1#2 true s.isBcst .i72 m d s.code i
  | .evpsraqZmmImm m d s i => encodeEvexImm 2#2 true s.isBcst .i72 m d s.code i

/-! ### The length of an instruction -/

/-- `nsib + ndisp` (30_encoding.md rules R62, R66). -/
def Disp.len : Disp → Nat
  | .none => 0
  | .d8 _ => 1
  | .d32 _ => 4

def Mem.len : Mem → Nat
  | .base d _ => d.len
  | .rip _ => 4
  | .sib d _ _ _ => 1 + d.len
  | .sibNoBase _ _ _ => 5

def RegMem.len {n : Nat} : RegMem n → Nat
  | .reg _ => 0
  | .mem m => m.len

def Source.len : Source → Nat
  | .reg _ => 0
  | .mem m => m.len
  | .bcst m => m.len

/-- `len = nprefix + nopcode + 1 + nsib + ndisp + nimm` (30_encoding.md rule R66); the legacy prefix bytes are the
optional 66, the optional REX and the 0F. -/
def legacyLen (p66 rex : Bool) (rm imm : Nat) : Nat := p66.toNat + rex.toNat + 1 + 1 + 1 + rm + imm

/-- VEX2 has two prefix bytes, VEX3 three (30_encoding.md rule R66). -/
def vexLen (f : VexForm) (rm imm : Nat) : Nat :=
  match f with
  | .vex2 => 2 + 1 + 1 + rm + imm
  | .vex3 _ => 3 + 1 + 1 + rm + imm

/-- EVEX has four prefix bytes (30_encoding.md rule R66). -/
def evexLen (rm imm : Nat) : Nat := 4 + 1 + 1 + rm + imm

/-- The length of an instruction in bytes (30_encoding.md rule R66). -/
def Instr.len : Instr → Nat
  | .psrawMmRm rex _ c => legacyLen false rex c.len 0
  | .psrawXmmRm rex _ c => legacyLen true rex c.len 0
  | .psrawMmImm rex _ _ => legacyLen false rex 0 1
  | .psrawXmmImm rex _ _ => legacyLen true rex 0 1
  | .psradMmRm rex _ c => legacyLen false rex c.len 0
  | .psradXmmRm rex _ c => legacyLen true rex c.len 0
  | .psradMmImm rex _ _ => legacyLen false rex 0 1
  | .psradXmmImm rex _ _ => legacyLen true rex 0 1
  | .vpsrawXmmRm f _ _ c => vexLen f c.len 0
  | .vpsrawXmmImm f _ _ _ => vexLen f 0 1
  | .vpsradXmmRm f _ _ c => vexLen f c.len 0
  | .vpsradXmmImm f _ _ _ => vexLen f 0 1
  | .vpsrawYmmRm f _ _ c => vexLen f c.len 0
  | .vpsrawYmmImm f _ _ _ => vexLen f 0 1
  | .vpsradYmmRm f _ _ c => vexLen f c.len 0
  | .vpsradYmmImm f _ _ _ => vexLen f 0 1
  | .evpsrawXmmRm _ _ _ _ c => evexLen c.len 0
  | .evpsrawYmmRm _ _ _ _ c => evexLen c.len 0
  | .evpsrawZmmRm _ _ _ _ c => evexLen c.len 0
  | .evpsrawXmmImm _ _ _ s _ => evexLen s.len 1
  | .evpsrawYmmImm _ _ _ s _ => evexLen s.len 1
  | .evpsrawZmmImm _ _ _ s _ => evexLen s.len 1
  | .evpsradXmmRm _ _ _ c => evexLen c.len 0
  | .evpsradYmmRm _ _ _ c => evexLen c.len 0
  | .evpsradZmmRm _ _ _ c => evexLen c.len 0
  | .evpsradXmmImm _ _ s _ => evexLen s.len 1
  | .evpsradYmmImm _ _ s _ => evexLen s.len 1
  | .evpsradZmmImm _ _ s _ => evexLen s.len 1
  | .evpsraqXmmRm _ _ _ c => evexLen c.len 0
  | .evpsraqYmmRm _ _ _ c => evexLen c.len 0
  | .evpsraqZmmRm _ _ _ c => evexLen c.len 0
  | .evpsraqXmmImm _ _ s _ => evexLen s.len 1
  | .evpsraqYmmImm _ _ s _ => evexLen s.len 1
  | .evpsraqZmmImm _ _ s _ => evexLen s.len 1

/-! ### The host's question about one opcode-table row -/

/-- The low `8*n` bits of `w` as `n` bytes, the most significant byte first: opcode_table.json numbers a row's bits as one
number whose most significant byte is the first byte of the instruction. -/
def bytesHighFirst : (n : Nat) → (w : Nat) → List Byte
  | 0, _ => []
  | n + 1, w => BitVec.ofNat 8 (w >>> (8 * n)) :: bytesHighFirst n w

/-- The low `8*n` bits of `w` as `n` bytes, the least significant byte first. -/
def bytesLowFirst : (n : Nat) → (w : Nat) → List Byte
  | 0, _ => []
  | n + 1, w => BitVec.ofNat 8 w :: bytesLowFirst n (w >>> 8)

/-- The longest instruction in bytes (30_encoding.md rule R66). -/
def maxLen : Nat := 15

/-- Exactly `maxLen` bytes: the given ones, then zeros. -/
def padBytes (bs : List Byte) : List Byte := (bs ++ List.replicate maxLen 0#8).take maxLen

def Decoded.instr? : Decoded → Option Instr
  | .ok i => some i
  | _ => none

/-- The bytes of a table word (log entry 20): the table's numbering, first byte most significant; where only the other
numbering, first byte least significant, selects an instruction, that one. -/
def tableWordBytes (nbits w : Nat) : List Byte :=
  let high := padBytes (bytesHighFirst ((nbits + 7) / 8) w)
  let low := padBytes (bytesLowFirst ((nbits + 7) / 8) w)
  if (decode high).instr?.isNone && (decode low).instr?.isSome then low else high

/-- The instruction the decoder reads from an opcode-table word (log entry 20). -/
def decodeTableWord (nbits w : Nat) : Option Instr := (decode (tableWordBytes nbits w)).instr?

end Sys2Proof
end

