-- ==== Sys2Proof/Machine/State.lean ====
section
/-! DEFINITION. The machine's state, the reasons a step can stop, and the state after reset. -/

namespace Sys2Proof.Machine

/-- The exceptions of 60_exceptions.md rule R150. Each ends the run with the state unchanged (rules R157, R158). -/
inductive Fault where
  /-- #UD, invalid opcode: raised by the decoder on an invalid encoding (30_encoding.md rules R59, R61) and by the enable
  check of every instruction (60_exceptions.md rule R152). Safe: the run ends. -/
  | ud
  /-- #NM, device not available: raised by the enable check when CR0.TS is set (rule R153). Safe: the run ends. -/
  | nm
  /-- #MF, x87 floating-point error pending: raised by the enable check of the MMX rows (rule R153). Safe: the run ends. -/
  | mf
  /-- #GP(0): raised by a misaligned 128-bit count of legacy rows 2 and 6 (20_memory.md rule R36) and by the fetch of an
  instruction longer than 15 bytes (30_encoding.md rule R66). Safe: the run ends. -/
  | gp0
  /-- A data access of `n` bytes at `addr` that is not accessible (rule R154), or an alignment check in force (20_memory.md
  rule R36). Safe: the run ends. -/
  | memFault (addr : Addr) (n : Nat)
  /-- An instruction byte at `addr` that cannot be fetched (rule R150). Safe: the run ends. -/
  | fetchFault (addr : Addr)
deriving DecidableEq, Repr

/-- Why the model gives no meaning (60_exceptions.md rule R150). A refusal claims nothing of the processor, so all are safe. -/
inductive Refusal where
  /-- An arm of `exec` without a meaning; no arm answers it. Safe. -/
  | notModelled (mnemonic : String)
  /-- Raised by the fetch: the bytes at `rip` select none of the 34 rows (30_encoding.md rule R60). `bytes` are all the bytes
  that could be fetched, at most 15 (DESIGN CHOICE, log entry 34). Safe. -/
  | outOfScope (rip : Addr) (bytes : List Byte)
  /-- Raised by the fetch: a bit that names nothing is not canonical (30_encoding.md rule R54). Safe. -/
  | nonCanonical (bit : PrefixBit)
  /-- Raised by the fetch: a prefix the model does not admit (30_encoding.md rule R59). Safe. -/
  | prefixNotAdmitted (byte : Byte)
  /-- Raised by the step and by every instruction in the 32-bit modes (30_encoding.md rule R67). Safe. -/
  | modeNotModelled
  /-- Raised by an instruction whose register view or mask bits the configuration does not have although it has the row's
  feature flags: a vector longer than MAXVL, more lanes than opmask bits, an MMX register number not below NMM, a
  writemask number not below NK. The spec gives no outcome for any of them (log entry 9). Safe. -/
  | viewAbsent
deriving DecidableEq, Repr

/-- Byte memory: (address, byte) pairs, addresses strictly rising, no byte equal to what an unlisted address reads as. -/
abbrev Memory := List Host.Cell

/-- The machine's state (10_state.md, section 1), with the configuration beside it. -/
structure State where
  /-- `VR` (rule R10): vector registers in 512 bits of storage; the bits from MAXVL up are no part of the machine. -/
  vr : Vector VrWord 32
  /-- `MM` (rule R12): storage for 8; the registers from NMM up are no part of the machine. -/
  mm : Vector (BitVec 64) 8
  /-- `K` (rule R13): opmask registers in 64 bits of storage; the bits from KW up, and the registers from NK up,
  are no part of the machine. -/
  k : Vector (BitVec 64) 8
  /-- `GPR` (rule R14). -/
  gpr : Vector (BitVec 64) 16
  /-- The program counter (rule R15): the address of the instruction's first byte. -/
  rip : Addr
  /-- RFLAGS (rule R16), which no instruction reads or writes. -/
  rflags : BitVec 64
  /-- MXCSR (rule R17), which no instruction reads or writes. -/
  mxcsr : BitVec 32
  /-- `Mem` (20_memory.md rule R30). -/
  mem : Memory
  /-- The parameters of the step (00_scope.md rule R5), which no step changes. -/
  params : Params
deriving DecidableEq, Repr

/-- The machine right after reset. The spec gives no reset value (10_state.md rule R22): registers are zero (DESIGN CHOICE,
log entry 2); `rip`, RFLAGS and MXCSR have the family's values (PRESUMED, log entries 3 and 4); the configuration is that
of log entry 5; memory lists nothing. -/
def State.reset : State where
  vr := Vector.replicate 32 0#512
  mm := Vector.replicate 8 0#64
  k := Vector.replicate 8 0#64
  gpr := Vector.replicate 16 0#64
  rip := 0xFFFFFFF0#64
  rflags := 2#64
  mxcsr := 0x1F80#32
  mem := []
  params := Params.launch

end Sys2Proof.Machine
end

