-- ==== Sys2Proof/Machine/Flags.lean ====
section
/-! DEFINITION. The flags the spec gives the machine: the CPUID feature flags a row names and the operating system's
enabling of its class (10_state.md rules R18, R19; 60_exceptions.md rules R152, R153). No instruction computes a status
flag: none is read and none is written (10_state.md rules R16, R17). -/

namespace Sys2Proof.Machine

/-- What a row asks of the machine before it runs: its feature flags, its class, its vector length, how many opmask bits it
reads (none for a row without a writemask), the MMX registers it names, the opmask register it reads if any. -/
structure Needs where
  features : List Feature
  cls : OsClass
  vl : Nat
  maskBits : Nat
  mmRegs : List (BitVec 3)
  maskRegs : List (BitVec 3)
deriving DecidableEq, Repr

/-- Rows 1, 3, 5, 7 (10_state.md rules R18, R19), with the MMX registers named. -/
def needsMmx (regs : List (BitVec 3)) : Needs := ⟨[.mmx], .mmx, 64, 0, regs, []⟩

/-- Rows 2, 4, 6, 8. -/
def needsSse2 : Needs := ⟨[.sse2], .sse, 128, 0, [], []⟩

/-- Rows 9 to 12 (VEX.128) and 13 to 16 (VEX.256). -/
def needsVex (vl : Nat) : Needs := ⟨[if vl = 128 then .avx else .avx2], .avx, vl, 0, [], []⟩

/-- The opmask register a writemask field names; 000 names none (40_shift_core.md rule R94). -/
def maskRegs (m : Mask) : List (BitVec 3) := if m.k = 0#3 then [] else [m.k]

/-- The EVEX rows: the lane feature, and AVX512VL at 128 and 256 bits (00_scope.md rule R2: both names are required). -/
def needsEvex (lane : Feature) (n vl : Nat) (m : Mask) : Needs :=
  ⟨if vl = 512 then [lane] else [.avx512vl, lane], .avx512, vl, if m.k = 0#3 then 0 else vl / n, [],
    maskRegs m⟩

/-- Whether every flag a row names is in `FEAT`. -/
def hasFeatures (p : Params) (w : Needs) : Bool := w.features.all p.feat.has

/-- The #UD causes known once the row is known (60_exceptions.md rule R152 causes 1 and 2; 30_encoding.md rule R61, a
register number not below NVR). -/
def udCause (p : Params) (w : Needs) (regs : List (BitVec 5)) : Bool :=
  !hasFeatures p w || !p.os.enabled w.cls || regs.any (fun r => decide (p.nvr ≤ r.toNat))

/-- The enable checks in the order of 60_exceptions.md rule R156: #UD, then #NM, then #MF on the MMX rows. -/
def enableFault (p : Params) (w : Needs) (regs : List (BitVec 5)) : Option Fault :=
  if udCause p w regs then some .ud
  else if p.tsSet then some .nm
  else if p.x87Pending && w.cls == .mmx then some .mf
  else none

/-- Whether the registers a row works on are there and wide enough: a view of `vl` bits exists only when MAXVL reaches it
(10_state.md rule R10), a mask of that many lanes needs as many opmask bits (43_evex_vpsraw.md), `MM` has NMM registers and `K`
has NK (rules R12, R13). -/
def viewsExist (p : Params) (w : Needs) : Bool :=
  decide (w.vl ≤ p.maxvl.bits) && decide (w.maskBits ≤ p.kw.bits) &&
    w.mmRegs.all (fun r => decide (r.toNat < p.nmm)) && w.maskRegs.all (fun r => decide (r.toNat < p.nk))

/-- `FEAT` as the CPUID instruction reports it (10_state.md rule R18): EDX and ECX of leaf 01H, EBX of leaf 07H. -/
def withCpuid (p : Params) (edx1 ecx1 ebx7 : BitVec 32) : Params :=
  { p with feat :=
    { mmx := edx1.getLsbD 23
      sse2 := edx1.getLsbD 26
      avx := ecx1.getLsbD 28
      avx2 := ebx7.getLsbD 5
      avx512f := ebx7.getLsbD 16
      avx512bw := ebx7.getLsbD 30
      avx512vl := ebx7.getLsbD 31 } }

/-- `OSENABLED` and `TS_SET` as control registers determine them (10_state.md rule R19): CR0.EM is bit 2, CR0.TS bit 3,
CR4.OSFXSR bit 9, CR4.OSXSAVE bit 18; AVX needs XCR0[2:1] = 11 and AVX512 XCR0[7:5] = 111 besides. -/
def withControl (p : Params) (cr0 cr4 xcr0 : BitVec 64) : Params :=
  { p with
    tsSet := cr0.getLsbD 3
    os :=
      { mmx := !cr0.getLsbD 2
        sse := !cr0.getLsbD 2 && cr4.getLsbD 9
        avx := cr4.getLsbD 18 && xcr0.extractLsb' 1 2 == 3#2
        avx512 := cr4.getLsbD 18 && xcr0.extractLsb' 1 2 == 3#2 && xcr0.extractLsb' 5 3 == 7#3 } }

/-- Whether the register widths and counts are the defaults 00_scope.md rule R5 gives the mode and the features. -/
def defaultWidths (p : Params) : Bool :=
  p.maxvl == p.feat.defaultMaxVl && p.nvr == p.feat.defaultNvr p.mode && p.kw == p.feat.defaultKw &&
    p.nmm == defaultNmm && p.nk == defaultNk

/-- PRESUMED (log entry 33): the features that every processor of the family reports with others, AVX with AVX2 and AVX512F
with AVX512BW. The spec does not state it; `FEAT` may be any set. -/
def nestedFeatures (f : Features) : Bool := (!f.avx2 || f.avx) && (!f.avx512bw || f.avx512f)

end Sys2Proof.Machine
end

