-- ==== Sys2Proof/Machine/Ops.lean ====
section
/-! DEFINITION. The named operations over memory and registers, the lane functions of 40_shift_core.md, and raising an
exception. -/

namespace Sys2Proof.Machine

/-- What executing an instruction answers (60_exceptions.md rule R150). -/
abbrev Result := Host.Outcome State Fault Refusal

/-! ### Exceptions -/

/-- Taking an exception (60_exceptions.md rules R150, R158): the step's outcome is the fault, the run ends, and nothing is
saved or entered, for the spec gives no vector table, no stack frame and no handler. There is no return (rule R159). -/
def raise (x : Fault) : Result := .fault x

/-- The vectors the architecture gives an exception (60_exceptions.md rule R150); a memory fault stands for several. -/
def Fault.vectors : Fault → List Nat
  | .ud => [6]
  | .nm => [7]
  | .mf => [16]
  | .gp0 => [13]
  | .memFault _ _ => [12, 13, 14, 17]
  | .fetchFault _ => [13, 14]

/-! ### Memory -/

/-- What an address reads as that memory does not list (DESIGN CHOICE, log entry 1). -/
def Memory.unlisted : Byte := 0#8

/-- The byte at an address. -/
def Memory.read : Memory → Nat → Byte
  | [], _ => Memory.unlisted
  | (b, v) :: m, a => if b = a then v else Memory.read m a

/-- A cell in front of a memory, left out where it holds what an unlisted address reads as. -/
def Memory.cons (a : Nat) (v : Byte) (m : Memory) : Memory :=
  if v = Memory.unlisted then m else (a, v) :: m

/-- Writing one byte, in canonical form. -/
def Memory.write : Memory → Nat → Byte → Memory
  | [], a, v => Memory.cons a v []
  | (b, w) :: m, a, v =>
    if a < b then Memory.cons a v ((b, w) :: m)
    else if a = b then Memory.cons a v m
    else (b, w) :: Memory.write m a v

/-- Every address of a memory lies above a bound, in strictly rising order below 2^64, and no byte is the unlisted one. -/
def Memory.wfFrom : Nat → Memory → Bool
  | _, [] => true
  | lo, (a, v) :: m => decide (lo ≤ a) && decide (a < 2 ^ 64) && v != Memory.unlisted && Memory.wfFrom (a + 1) m

/-- The canonical form. -/
def Memory.wf (m : Memory) : Bool := Memory.wfFrom 0 m

/-- The byte at a linear address (20_memory.md rule R30). -/
def State.byteAt (s : State) (a : Addr) : Byte := Memory.read s.mem a.toNat

/-- The little-endian value of `n` bytes from `a` on, addresses modulo 2^64 (20_memory.md rule R31). -/
def State.readLE (s : State) (a : Addr) : Nat → Nat
  | 0 => 0
  | n + 1 => (s.byteAt a).toNat + 256 * s.readLE (a + 1#64) n

/-- `MemRead(addr, w/8)` as a value of `w` bits, without its check (20_memory.md rule R31). -/
def State.memRead (s : State) (w : Nat) (a : Addr) : BitVec w := BitVec.ofNat w (s.readLE a (w / 8))

/-- Writing bytes at rising addresses modulo 2^64. -/
def State.writeBytes (s : State) (a : Addr) : List Byte → State
  | [] => s
  | b :: bs => State.writeBytes { s with mem := Memory.write s.mem a.toNat b } (a + 1#64) bs

/-- The `n` bytes of a value, low byte first. -/
def bytesOf (v : Nat) : Nat → List Byte
  | 0 => []
  | n + 1 => BitVec.ofNat 8 v :: bytesOf (v >>> 8) n

/-- `MemWrite(addr, n, v)` (20_memory.md rule R32); no instruction uses it. -/
def State.memWrite (s : State) (a : Addr) (n : Nat) (v : BitVec (8 * n)) : State := s.writeBytes a (bytesOf v.toNat n)

/-! ### Accessibility -/

/-- A canonical linear address: bits 63:47, or 63:56, all equal (20_memory.md rule R39). -/
def canonical (w : LinearWidth) (a : Addr) : Bool :=
  match w with
  | .la48 => a.extractLsb' 47 17 == 0#17 || a.extractLsb' 47 17 == BitVec.allOnes 17
  | .la57 => a.extractLsb' 56 8 == 0#8 || a.extractLsb' 56 8 == BitVec.allOnes 8

/-- Whether a region forbids an access of a kind at an address. -/
def regionDenies (r : Region) (kind : AccessKind) (a : Nat) : Bool :=
  decide (r.base ≤ a) && decide (a < r.base + r.size) &&
    match kind with
    | .data => r.noData
    | .fetch => r.noFetch

/-- Whether one byte is accessible: its address is canonical and no region denies it (20_memory.md rule R39). -/
def accessibleByte (p : Params) (kind : AccessKind) (a : Addr) : Bool :=
  canonical p.linear a && !p.denied.any (fun r => regionDenies r kind a.toNat)

/-- `Accessible(addr, n, kind)`: each of the `n` bytes is (60_exceptions.md rule R154). -/
def accessible (p : Params) (kind : AccessKind) (a : Addr) : Nat → Bool
  | 0 => true
  | n + 1 => accessibleByte p kind a && accessible p kind (a + 1#64) n

/-- A checked data read of `w` bits (20_memory.md rule R31, 60_exceptions.md rule R154). -/
def load (w : Nat) (s : State) (a : Addr) : Except Fault (BitVec w) :=
  if accessible s.params .data a (w / 8) then .ok (s.memRead w a) else .error (.memFault a (w / 8))

/-! ### Registers -/

def State.readVr (s : State) (r : BitVec 5) : VrWord := s.vr.get r.toFin

def State.readMm (s : State) (r : BitVec 3) : BitVec 64 := s.mm.get r.toFin

def State.readK (s : State) (r : BitVec 3) : BitVec 64 := s.k.get r.toFin

def State.readGpr (s : State) (r : BitVec 4) : BitVec 64 := s.gpr.get r.toFin

def State.setVr (s : State) (r : BitVec 5) (v : VrWord) : State := { s with vr := s.vr.set r.toNat v r.isLt }

/-- `MM[d] <- r` (40_shift_core.md rule R95). -/
def State.setMm (s : State) (r : BitVec 3) (v : BitVec 64) : State := { s with mm := s.mm.set r.toNat v r.isLt }

/-- `rip <- rip + len`, modulo 2^64 (10_state.md rule R15). -/
def State.advance (s : State) (len : Nat) : State := { s with rip := s.rip + BitVec.ofNat 64 len }

/-- The view of the low `vl` bits of a vector register (10_state.md rule R10). -/
def State.view (s : State) (vl : Nat) (r : BitVec 5) : BitVec vl := (s.readVr r).extractLsb' 0 vl

/-- Replacing the low `vl` bits of a register and keeping the bits above (10_state.md rule R11, legacy 128-bit). -/
def keepUpper {vl : Nat} (old : VrWord) (r : BitVec vl) : VrWord := ((old >>> vl) <<< vl) ||| r.setWidth 512

/-- Replacing the low `vl` bits of a register and zeroing the bits above (10_state.md rule R11, VEX and EVEX). -/
def zeroUpper {vl : Nat} (r : BitVec vl) : VrWord := r.setWidth 512

/-! ### Lanes (40_shift_core.md) -/

/-- `SRA_N(x, c)` (rule R90). -/
def sra {n : Nat} (x : BitVec n) (c : Nat) : BitVec n :=
  if c > n - 1 then (if x.msb then BitVec.allOnes n else 0#n) else x.sshiftRight c

/-- `lane_N(v, j)` (00_scope.md rule R8). -/
def lane (n : Nat) {vl : Nat} (v : BitVec vl) (j : Nat) : BitVec n := v.extractLsb' (n * j) n

/-- The number whose digits to the base 2^n are `k` lanes, lane 0 the least significant. -/
def lanesNat (n : Nat) : (k : Nat) → (Nat → BitVec n) → Nat
  | 0, _ => 0
  | k + 1, f => (f 0).toNat + 2 ^ n * lanesNat n k (fun j => f (j + 1))

/-- The vector of `vl` bits with the given lanes of `n` bits. -/
def ofLanes (n vl : Nat) (f : Nat → BitVec n) : BitVec vl := BitVec.ofNat vl (lanesNat n (vl / n) f)

/-- `PackedSRA_N(src, COUNT, VL)` (rule R93). -/
def packedSra (n : Nat) {vl : Nat} (src : BitVec vl) (count : Nat) : BitVec vl :=
  ofLanes n vl (fun j => sra (lane n src j) count)

/-- Whether lane `j` is written: no writemask, or mask bit `j` is 1 (rule R94). -/
def State.selected (s : State) (m : Mask) (j : Nat) : Bool := m.k == 0#3 || (s.readK m.k).getLsbD j

/-- `Masked_N(res, old, aaa, z, VL)` (rule R94). -/
def State.masked (s : State) (n : Nat) {vl : Nat} (m : Mask) (res old : BitVec vl) : BitVec vl :=
  ofLanes n vl (fun j => if s.selected m j then lane n res j else if m.z then 0#n else lane n old j)

/-- `Broadcast_N(t, VL)` (rule R96). -/
def broadcast {n : Nat} (vl : Nat) (t : BitVec n) : BitVec vl := ofLanes n vl (fun _ => t)

end Sys2Proof.Machine
end

