-- ==== Sys2Proof/Machine/Operands.lean ====
section
/-! DEFINITION. The operands: effective addresses, count operands, data sources, and the length of an instruction. -/

namespace Sys2Proof.Machine

/-! ### Effective addresses (30_encoding.md rule R62) -/

/-- A displacement: disp8 sign-extended and scaled by `scale` (30_encoding.md rule R63; 1 outside EVEX), disp32
sign-extended and never scaled. -/
def dispValue (scale : Nat) : Disp → Addr
  | .none => 0#64
  | .d8 v => v.signExtend 64 * BitVec.ofNat 64 scale
  | .d32 v => v.signExtend 64

/-- The scaled index; index 0100 is no index. -/
def State.indexValue (s : State) (scale : BitVec 2) (index : BitVec 4) : Addr :=
  if index = 4#4 then 0#64 else s.readGpr index <<< scale.toNat

/-- `EA`, modulo 2^64. `len` is the instruction's length: RIP-relative operands count from the next instruction. -/
def State.ea (s : State) (len scale : Nat) : Mem → Addr
  | .base d b => s.readGpr b + dispValue scale d
  | .rip d => s.rip + BitVec.ofNat 64 len + d.signExtend 64
  | .sib d sc i b => s.readGpr b + s.indexValue sc i + dispValue scale d
  | .sibNoBase sc i d => s.indexValue sc i + d.signExtend 64

/-! ### Count operands (40_shift_core.md rule R92) -/

/-- The count of the MMX rows: all 64 bits of a register or of 8 bytes of memory. With `AC_ENABLED` the 8 bytes must be
aligned (20_memory.md rule R36). -/
def State.countMm (s : State) (len : Nat) : RegMem 3 → Except Fault Nat
  | .reg r => .ok (s.readMm r).toNat
  | .mem m =>
    if s.params.acEnabled && (s.ea len 1 m).toNat % 8 != 0 then .error (.memFault (s.ea len 1 m) 8)
    else
      match load 64 s (s.ea len 1 m) with
      | .ok v => .ok v.toNat
      | .error x => .error x

/-- The low 64 bits of a 128-bit count operand, unsigned. -/
def countOf (v : BitVec 128) : Nat := (v.extractLsb' 0 64).toNat

/-- The count of the other variable-count rows: a 128-bit register or 16 bytes of memory, loaded whole, of which bits 63:0
count. `aligned` is the legacy SSE rule: 16-byte alignment, else #GP(0) (20_memory.md rule R36). -/
def State.countXmm (s : State) (aligned : Bool) (len scale : Nat) : RegMem 5 → Except Fault Nat
  | .reg r => .ok (countOf (s.view 128 r))
  | .mem m =>
    if aligned && (s.ea len scale m).toNat % 16 != 0 then .error .gp0
    else
      match load 128 s (s.ea len scale m) with
      | .ok v => .ok (countOf v)
      | .error x => .error x

/-! ### Data sources (40_shift_core.md rule R96) -/

/-- The data source of Op/En E (tuple Full Mem): a register view or `vl/8` bytes, checked whole whatever the mask. -/
def State.sourceFullMem (s : State) (vl len : Nat) : RegMem 5 → Except Fault (BitVec vl)
  | .reg r => .ok (s.view vl r)
  | .mem m => load vl s (s.ea len (vl / 8) m)

/-- Whether each of the first `k` lanes that the mask selects has its `n/8` bytes accessible. -/
def lanesAccessible (s : State) (n : Nat) (m : Mask) (a : Addr) : Nat → Bool
  | 0 => true
  | k + 1 =>
    (!s.selected m k || accessible s.params .data (a + BitVec.ofNat 64 (k * (n / 8))) (n / 8)) &&
      lanesAccessible s n m a k

/-- Whether the mask selects one of the first `k` lanes. -/
def anySelected (s : State) (m : Mask) : Nat → Bool
  | 0 => false
  | k + 1 => s.selected m k || anySelected s m k

/-- The check of a Full memory source. Without `FAULT_SUPPRESSION` the whole operand must be accessible; with it, only the
lanes the mask selects (20_memory.md rule R47; log entry 7). -/
def fullAccess (s : State) (n vl : Nat) (m : Mask) (a : Addr) : Bool :=
  if s.params.faultSuppression then lanesAccessible s n m a (vl / n) else accessible s.params .data a (vl / 8)

/-- The check of a broadcast element: with `FAULT_SUPPRESSION` it is exempt when the mask selects no lane. -/
def bcstAccess (s : State) (n vl : Nat) (m : Mask) (a : Addr) : Bool :=
  (s.params.faultSuppression && !anySelected s m (vl / n)) || accessible s.params .data a (n / 8)

/-- The data source of Op/En F (tuple Full): a register view, `vl/8` bytes, or one element of `n` bits in every lane. -/
def State.sourceFull (s : State) (n vl len : Nat) (m : Mask) : Source → Except Fault (BitVec vl)
  | .reg r => .ok (s.view vl r)
  | .mem a =>
    if fullAccess s n vl m (s.ea len (vl / 8) a) then .ok (s.memRead vl (s.ea len (vl / 8) a))
    else .error (.memFault (s.ea len (vl / 8) a) (vl / 8))
  | .bcst a =>
    if bcstAccess s n vl m (s.ea len (n / 8) a) then .ok (broadcast vl (s.memRead n (s.ea len (n / 8) a)))
    else .error (.memFault (s.ea len (n / 8) a) (n / 8))

/-! ### Register operands -/

/-- A four-bit register number in the file of 32. -/
def wide (r : BitVec 4) : BitVec 5 := r.setWidth 5

def wideRm : RegMem 4 → RegMem 5
  | .reg r => .reg (wide r)
  | .mem m => .mem m

/-- The MMX register an r/m operand names, if it names one. -/
def rmMmRegs : RegMem 3 → List (BitVec 3)
  | .reg r => [r]
  | .mem _ => []

/-- The vector register an r/m operand names, if it names one. -/
def rmRegs : RegMem 5 → List (BitVec 5)
  | .reg r => [r]
  | .mem _ => []

def sourceRegs : Source → List (BitVec 5)
  | .reg r => [r]
  | .mem _ => []
  | .bcst _ => []

/-! ### The skeleton of a step (40_shift_core.md rule R97, steps 2 to 7) -/

/-- Step 2: the mode, the enable checks and the register views, before any operand is read. -/
def enter (s : State) (w : Needs) (regs : List (BitVec 5)) (body : Result) : Result :=
  if s.params.mode = .mode32 then .refused .modeNotModelled
  else
    match enableFault s.params w regs with
    | some x => raise x
    | none => if viewsExist s.params w then body else .refused .viewAbsent

/-- Step 3: an operand that may fault. -/
def withOperand {α : Type} (o : Except Fault α) (body : α → Result) : Result :=
  match o with
  | .ok v => body v
  | .error x => raise x

/-- Steps 6 and 7 for an MMX destination. -/
def finishMm (s : State) (d : BitVec 3) (r : BitVec 64) (len : Nat) : Result := .next ((s.setMm d r).advance len)

/-- Steps 6 and 7 for a vector destination. -/
def finishVr (s : State) (d : BitVec 5) (v : VrWord) (len : Nat) : Result := .next ((s.setVr d v).advance len)

end Sys2Proof.Machine
end

