-- ==== Sys2Proof/Machine/Evex.lean ====
section
/-! DEFINITION. What the EVEX rows share: the count or data operand, the writemask, the zeroing of the upper bits. -/

namespace Sys2Proof.Machine

/-- An EVEX row with a register or memory count (Op/En G, tuple Mem128: disp8 is scaled by 16 at every length). -/
def evexByRm (lf : Feature) (n vl : Nat) (m : Mask) (d src : BitVec 5) (cnt : RegMem 5) (s : State) : Result :=
  enter s (needsEvex lf n vl m) (d :: src :: rmRegs cnt)
    (withOperand (s.countXmm false (evexLen cnt.len 0) 16 cnt) fun c =>
      finishVr s d (zeroUpper (s.masked n m (packedSra n (s.view vl src) c) (s.view vl d))) (evexLen cnt.len 0))

/-- An EVEX row with an immediate count and tuple Full Mem (Op/En E). -/
def evexFullMem (lf : Feature) (n vl : Nat) (m : Mask) (d : BitVec 5) (src : RegMem 5) (imm : BitVec 8) (s : State) :
    Result :=
  enter s (needsEvex lf n vl m) (d :: rmRegs src)
    (withOperand (s.sourceFullMem vl (evexLen src.len 1) src) fun v =>
      finishVr s d (zeroUpper (s.masked n m (packedSra n v imm.toNat) (s.view vl d))) (evexLen src.len 1))

/-- An EVEX row with an immediate count and tuple Full, broadcast included (Op/En F). -/
def evexFull (lf : Feature) (n vl : Nat) (m : Mask) (d : BitVec 5) (src : Source) (imm : BitVec 8) (s : State) :
    Result :=
  enter s (needsEvex lf n vl m) (d :: sourceRegs src)
    (withOperand (s.sourceFull n vl (evexLen src.len 1) m src) fun v =>
      finishVr s d (zeroUpper (s.masked n m (packedSra n v imm.toNat) (s.view vl d))) (evexLen src.len 1))

end Sys2Proof.Machine
end

