-- ==== Sys2Proof/Machine/EvexVpsrad.lean ====
section
/-! DEFINITION. The EVEX forms of VPSRAD, rows 23 to 28 (44_evex_vpsrad.md). -/

namespace Sys2Proof.Machine

/-- Row 23, rule R130. -/
def execEvpsradXmmRm (m : Mask) (d src : BitVec 5) (cnt : RegMem 5) (s : State) : Result :=
  evexByRm .avx512f 32 128 m d src cnt s

/-- Row 24, rule R131. -/
def execEvpsradYmmRm (m : Mask) (d src : BitVec 5) (cnt : RegMem 5) (s : State) : Result :=
  evexByRm .avx512f 32 256 m d src cnt s

/-- Row 25, rule R132. -/
def execEvpsradZmmRm (m : Mask) (d src : BitVec 5) (cnt : RegMem 5) (s : State) : Result :=
  evexByRm .avx512f 32 512 m d src cnt s

/-- Row 26, rule R133. -/
def execEvpsradXmmImm (m : Mask) (d : BitVec 5) (src : Source) (imm : BitVec 8) (s : State) : Result :=
  evexFull .avx512f 32 128 m d src imm s

/-- Row 27, rule R134. -/
def execEvpsradYmmImm (m : Mask) (d : BitVec 5) (src : Source) (imm : BitVec 8) (s : State) : Result :=
  evexFull .avx512f 32 256 m d src imm s

/-- Row 28, rule R135. -/
def execEvpsradZmmImm (m : Mask) (d : BitVec 5) (src : Source) (imm : BitVec 8) (s : State) : Result :=
  evexFull .avx512f 32 512 m d src imm s

end Sys2Proof.Machine
end

