-- ==== Sys2Proof/Machine/EvexVpsraq.lean ====
section
/-! DEFINITION. The EVEX forms of VPSRAQ, rows 29 to 34 (45_evex_vpsraq.md). -/

namespace Sys2Proof.Machine

/-- Row 29, rule R140. -/
def execEvpsraqXmmRm (m : Mask) (d src : BitVec 5) (cnt : RegMem 5) (s : State) : Result :=
  evexByRm .avx512f 64 128 m d src cnt s

/-- Row 30, rule R141. -/
def execEvpsraqYmmRm (m : Mask) (d src : BitVec 5) (cnt : RegMem 5) (s : State) : Result :=
  evexByRm .avx512f 64 256 m d src cnt s

/-- Row 31, rule R142. -/
def execEvpsraqZmmRm (m : Mask) (d src : BitVec 5) (cnt : RegMem 5) (s : State) : Result :=
  evexByRm .avx512f 64 512 m d src cnt s

/-- Row 32, rule R143. -/
def execEvpsraqXmmImm (m : Mask) (d : BitVec 5) (src : Source) (imm : BitVec 8) (s : State) : Result :=
  evexFull .avx512f 64 128 m d src imm s

/-- Row 33, rule R144. -/
def execEvpsraqYmmImm (m : Mask) (d : BitVec 5) (src : Source) (imm : BitVec 8) (s : State) : Result :=
  evexFull .avx512f 64 256 m d src imm s

/-- Row 34, rule R145. -/
def execEvpsraqZmmImm (m : Mask) (d : BitVec 5) (src : Source) (imm : BitVec 8) (s : State) : Result :=
  evexFull .avx512f 64 512 m d src imm s

end Sys2Proof.Machine
end

