-- ==== Sys2Proof/Machine/EvexVpsraw.lean ====
section
/-! DEFINITION. The EVEX forms of VPSRAW, rows 17 to 22 (43_evex_vpsraw.md). -/

namespace Sys2Proof.Machine

/-- Row 17, rule R120; W is ignored. -/
def execEvpsrawXmmRm (_w : Bool) (m : Mask) (d src : BitVec 5) (cnt : RegMem 5) (s : State) : Result :=
  evexByRm .avx512bw 16 128 m d src cnt s

/-- Row 18, rule R121; W is ignored. -/
def execEvpsrawYmmRm (_w : Bool) (m : Mask) (d src : BitVec 5) (cnt : RegMem 5) (s : State) : Result :=
  evexByRm .avx512bw 16 256 m d src cnt s

/-- Row 19, rule R122; W is ignored. -/
def execEvpsrawZmmRm (_w : Bool) (m : Mask) (d src : BitVec 5) (cnt : RegMem 5) (s : State) : Result :=
  evexByRm .avx512bw 16 512 m d src cnt s

/-- Row 20, rule R123; W is ignored. -/
def execEvpsrawXmmImm (_w : Bool) (m : Mask) (d : BitVec 5) (src : RegMem 5) (imm : BitVec 8) (s : State) : Result :=
  evexFullMem .avx512bw 16 128 m d src imm s

/-- Row 21, rule R124; W is ignored. -/
def execEvpsrawYmmImm (_w : Bool) (m : Mask) (d : BitVec 5) (src : RegMem 5) (imm : BitVec 8) (s : State) : Result :=
  evexFullMem .avx512bw 16 256 m d src imm s

/-- Row 22, rule R125; W is ignored. -/
def execEvpsrawZmmImm (_w : Bool) (m : Mask) (d : BitVec 5) (src : RegMem 5) (imm : BitVec 8) (s : State) : Result :=
  evexFullMem .avx512bw 16 512 m d src imm s

end Sys2Proof.Machine
end

