-- ==== Sys2Proof/Machine/Legacy.lean ====
section
/-! DEFINITION. The legacy forms, rows 1 to 8 (41_legacy_mmx_sse2.md). -/

namespace Sys2Proof.Machine

/-- An MMX row with a register or memory count (Op/En A): `n`-bit lanes of `MM[d]`. -/
def mmxByRm (n : Nat) (rex : Bool) (d : BitVec 3) (cnt : RegMem 3) (s : State) : Result :=
  enter s (needsMmx (d :: rmMmRegs cnt)) [] (withOperand (s.countMm (legacyLen false rex cnt.len 0) cnt) fun c =>
    finishMm s d (packedSra n (s.readMm d) c) (legacyLen false rex cnt.len 0))

/-- An MMX row with an immediate count (Op/En B). -/
def mmxByImm (n : Nat) (rex : Bool) (d : BitVec 3) (imm : BitVec 8) (s : State) : Result :=
  enter s (needsMmx [d]) [] (finishMm s d (packedSra n (s.readMm d) imm.toNat) (legacyLen false rex 0 1))

/-- A legacy 128-bit row with a register or memory count (Op/En A); the bits above 127 are kept. -/
def sseByRm (n : Nat) (rex : Bool) (d : BitVec 4) (cnt : RegMem 4) (s : State) : Result :=
  enter s needsSse2 (wide d :: rmRegs (wideRm cnt))
    (withOperand (s.countXmm true (legacyLen true rex cnt.len 0) 1 (wideRm cnt)) fun c =>
      finishVr s (wide d) (keepUpper (s.readVr (wide d)) (packedSra n (s.view 128 (wide d)) c))
        (legacyLen true rex cnt.len 0))

/-- A legacy 128-bit row with an immediate count (Op/En B); the bits above 127 are kept. -/
def sseByImm (n : Nat) (rex : Bool) (d : BitVec 4) (imm : BitVec 8) (s : State) : Result :=
  enter s needsSse2 [wide d]
    (finishVr s (wide d) (keepUpper (s.readVr (wide d)) (packedSra n (s.view 128 (wide d)) imm.toNat))
      (legacyLen true rex 0 1))

/-- Row 1, rule R100. -/
def execPsrawMmRm (rex : Bool) (d : BitVec 3) (cnt : RegMem 3) (s : State) : Result := mmxByRm 16 rex d cnt s

/-- Row 2, rule R101. -/
def execPsrawXmmRm (rex : Bool) (d : BitVec 4) (cnt : RegMem 4) (s : State) : Result := sseByRm 16 rex d cnt s

/-- Row 3, rule R102. -/
def execPsrawMmImm (rex : Bool) (d : BitVec 3) (imm : BitVec 8) (s : State) : Result := mmxByImm 16 rex d imm s

/-- Row 4, rule R103. -/
def execPsrawXmmImm (rex : Bool) (d : BitVec 4) (imm : BitVec 8) (s : State) : Result := sseByImm 16 rex d imm s

/-- Row 5, rule R104. -/
def execPsradMmRm (rex : Bool) (d : BitVec 3) (cnt : RegMem 3) (s : State) : Result := mmxByRm 32 rex d cnt s

/-- Row 6, rule R105. -/
def execPsradXmmRm (rex : Bool) (d : BitVec 4) (cnt : RegMem 4) (s : State) : Result := sseByRm 32 rex d cnt s

/-- Row 7, rule R106. -/
def execPsradMmImm (rex : Bool) (d : BitVec 3) (imm : BitVec 8) (s : State) : Result := mmxByImm 32 rex d imm s

/-- Row 8, rule R107. -/
def execPsradXmmImm (rex : Bool) (d : BitVec 4) (imm : BitVec 8) (s : State) : Result := sseByImm 32 rex d imm s

end Sys2Proof.Machine
end

