-- ==== Sys2Proof/Machine/Vex.lean ====
section
/-! DEFINITION. The VEX forms, rows 9 to 16 (42_vex_avx_avx2.md). -/

namespace Sys2Proof.Machine

/-- A VEX row with a register or memory count (Op/En C): `vl` bits of `src`; the bits above `vl` are zeroed. -/
def vexByRm (n vl : Nat) (f : VexForm) (d src : BitVec 4) (cnt : RegMem 4) (s : State) : Result :=
  enter s (needsVex vl) (wide d :: wide src :: rmRegs (wideRm cnt))
    (withOperand (s.countXmm false (vexLen f cnt.len 0) 1 (wideRm cnt)) fun c =>
      finishVr s (wide d) (zeroUpper (packedSra n (s.view vl (wide src)) c)) (vexLen f cnt.len 0))

/-- A VEX row with an immediate count (Op/En D). -/
def vexByImm (n vl : Nat) (f : VexForm) (d src : BitVec 4) (imm : BitVec 8) (s : State) : Result :=
  enter s (needsVex vl) [wide d, wide src]
    (finishVr s (wide d) (zeroUpper (packedSra n (s.view vl (wide src)) imm.toNat)) (vexLen f 0 1))

/-- Row 9, rule R110. -/
def execVpsrawXmmRm (f : VexForm) (d src : BitVec 4) (cnt : RegMem 4) (s : State) : Result := vexByRm 16 128 f d src cnt s

/-- Row 10, rule R111. -/
def execVpsrawXmmImm (f : VexForm) (d src : BitVec 4) (imm : BitVec 8) (s : State) : Result := vexByImm 16 128 f d src imm s

/-- Row 11, rule R112. -/
def execVpsradXmmRm (f : VexForm) (d src : BitVec 4) (cnt : RegMem 4) (s : State) : Result := vexByRm 32 128 f d src cnt s

/-- Row 12, rule R113. -/
def execVpsradXmmImm (f : VexForm) (d src : BitVec 4) (imm : BitVec 8) (s : State) : Result := vexByImm 32 128 f d src imm s

/-- Row 13, rule R114. -/
def execVpsrawYmmRm (f : VexForm) (d src : BitVec 4) (cnt : RegMem 4) (s : State) : Result := vexByRm 16 256 f d src cnt s

/-- Row 14, rule R115. -/
def execVpsrawYmmImm (f : VexForm) (d src : BitVec 4) (imm : BitVec 8) (s : State) : Result := vexByImm 16 256 f d src imm s

/-- Row 15, rule R116. -/
def execVpsradYmmRm (f : VexForm) (d src : BitVec 4) (cnt : RegMem 4) (s : State) : Result := vexByRm 32 256 f d src cnt s

/-- Row 16, rule R117. -/
def execVpsradYmmImm (f : VexForm) (d src : BitVec 4) (imm : BitVec 8) (s : State) : Result := vexByImm 32 256 f d src imm s

end Sys2Proof.Machine
end

