-- ==== Sys2Proof/Machine/Dispatch.lean ====
section
/-! DEFINITION. One arm per row of the opcode table, each a direct call of the row's meaning. -/

namespace Sys2Proof.Machine

def exec (i : Instr) (s : State) : Host.Outcome State Fault Refusal :=
  match i with
  | .psrawMmRm rex dst cnt => Sys2Proof.Machine.execPsrawMmRm rex dst cnt s
  | .psrawXmmRm rex dst cnt => Sys2Proof.Machine.execPsrawXmmRm rex dst cnt s
  | .psrawMmImm rex dst imm => Sys2Proof.Machine.execPsrawMmImm rex dst imm s
  | .psrawXmmImm rex dst imm => Sys2Proof.Machine.execPsrawXmmImm rex dst imm s
  | .psradMmRm rex dst cnt => Sys2Proof.Machine.execPsradMmRm rex dst cnt s
  | .psradXmmRm rex dst cnt => Sys2Proof.Machine.execPsradXmmRm rex dst cnt s
  | .psradMmImm rex dst imm => Sys2Proof.Machine.execPsradMmImm rex dst imm s
  | .psradXmmImm rex dst imm => Sys2Proof.Machine.execPsradXmmImm rex dst imm s
  | .vpsrawXmmRm form dst src cnt => Sys2Proof.Machine.execVpsrawXmmRm form dst src cnt s
  | .vpsrawXmmImm form dst src imm => Sys2Proof.Machine.execVpsrawXmmImm form dst src imm s
  | .vpsradXmmRm form dst src cnt => Sys2Proof.Machine.execVpsradXmmRm form dst src cnt s
  | .vpsradXmmImm form dst src imm => Sys2Proof.Machine.execVpsradXmmImm form dst src imm s
  | .vpsrawYmmRm form dst src cnt => Sys2Proof.Machine.execVpsrawYmmRm form dst src cnt s
  | .vpsrawYmmImm form dst src imm => Sys2Proof.Machine.execVpsrawYmmImm form dst src imm s
  | .vpsradYmmRm form dst src cnt => Sys2Proof.Machine.execVpsradYmmRm form dst src cnt s
  | .vpsradYmmImm form dst src imm => Sys2Proof.Machine.execVpsradYmmImm form dst src imm s
  | .evpsrawXmmRm w mask dst src cnt => Sys2Proof.Machine.execEvpsrawXmmRm w mask dst src cnt s
  | .evpsrawYmmRm w mask dst src cnt => Sys2Proof.Machine.execEvpsrawYmmRm w mask dst src cnt s
  | .evpsrawZmmRm w mask dst src cnt => Sys2Proof.Machine.execEvpsrawZmmRm w mask dst src cnt s
  | .evpsrawXmmImm w mask dst src imm => Sys2Proof.Machine.execEvpsrawXmmImm w mask dst src imm s
  | .evpsrawYmmImm w mask dst src imm => Sys2Proof.Machine.execEvpsrawYmmImm w mask dst src imm s
  | .evpsrawZmmImm w mask dst src imm => Sys2Proof.Machine.execEvpsrawZmmImm w mask dst src imm s
  | .evpsradXmmRm mask dst src cnt => Sys2Proof.Machine.execEvpsradXmmRm mask dst src cnt s
  | .evpsradYmmRm mask dst src cnt => Sys2Proof.Machine.execEvpsradYmmRm mask dst src cnt s
  | .evpsradZmmRm mask dst src cnt => Sys2Proof.Machine.execEvpsradZmmRm mask dst src cnt s
  | .evpsradXmmImm mask dst src imm => Sys2Proof.Machine.execEvpsradXmmImm mask dst src imm s
  | .evpsradYmmImm mask dst src imm => Sys2Proof.Machine.execEvpsradYmmImm mask dst src imm s
  | .evpsradZmmImm mask dst src imm => Sys2Proof.Machine.execEvpsradZmmImm mask dst src imm s
  | .evpsraqXmmRm mask dst src cnt => Sys2Proof.Machine.execEvpsraqXmmRm mask dst src cnt s
  | .evpsraqYmmRm mask dst src cnt => Sys2Proof.Machine.execEvpsraqYmmRm mask dst src cnt s
  | .evpsraqZmmRm mask dst src cnt => Sys2Proof.Machine.execEvpsraqZmmRm mask dst src cnt s
  | .evpsraqXmmImm mask dst src imm => Sys2Proof.Machine.execEvpsraqXmmImm mask dst src imm s
  | .evpsraqYmmImm mask dst src imm => Sys2Proof.Machine.execEvpsraqYmmImm mask dst src imm s
  | .evpsraqZmmImm mask dst src imm => Sys2Proof.Machine.execEvpsraqZmmImm mask dst src imm s

end Sys2Proof.Machine
end

