-- ==== Sys2Proof/Machine/Fetch.lean ====
section
/-! DEFINITION. Fetching an instruction (20_memory.md rule R37; 60_exceptions.md rules R150, R156). -/

namespace Sys2Proof.Machine

/-- The bytes from an address up to the first that cannot be fetched, at most `n`. -/
def State.fetchFrom (s : State) (a : Addr) : Nat → List Byte
  | 0 => []
  | n + 1 => if accessibleByte s.params .fetch a then s.byteAt a :: s.fetchFrom (a + 1#64) n else []

/-- The fetchable bytes at `rip`, at most the 15 an instruction may have (30_encoding.md rule R66). -/
def State.window (s : State) : List Byte := s.fetchFrom s.rip maxLen

/-- What a verdict of the decoder on the fetched bytes means for the step. Bytes that end too early are a fetch fault at
the first byte missing, or #GP(0) where all 15 were there (30_encoding.md rule R66; log entry 13). The out-of-scope refusal carries all the fetched
bytes: how many `OutOfScope(rip, bytes)` carries, rule R60 does not say (DESIGN CHOICE, log entry 34). -/
def State.fetched (s : State) (bs : List Byte) : Decoded → Host.Outcome Instr Fault Refusal
  | .ok i => .next i
  | .more => if bs.length < maxLen then .fault (.fetchFault (s.rip + BitVec.ofNat 64 bs.length)) else .fault .gp0
  | .outOfScope => .refused (.outOfScope s.rip bs)
  | .nonCanonical bit => .refused (.nonCanonical bit)
  | .prefixNotAdmitted byte => .refused (.prefixNotAdmitted byte)
  | .ud => .fault .ud

/-- Step 1 of 40_shift_core.md rule R97. A byte that cannot be fetched comes before every other outcome (60_exceptions.md
rule R156); in the 32-bit modes nothing is decoded (30_encoding.md rule R67), and only the byte at `rip` is checked (DEDUCED, log entry
14). -/
def State.fetch (s : State) : Host.Outcome Instr Fault Refusal :=
  if accessibleByte s.params .fetch s.rip = false then .fault (.fetchFault s.rip)
  else if s.params.mode = .mode32 then .refused .modeNotModelled
  else s.fetched s.window (decode s.window)

/-- Storing the bytes of an opcode-table word at `rip` (log entry 20). -/
def State.storeFetchWord (s : State) (nbits w : Nat) : State := s.writeBytes s.rip (tableWordBytes nbits w)

end Sys2Proof.Machine
end

