-- ==== Sys2Proof/Safety.lean ====
section
/-! DEFINITION. The terms claims are stated in: what each row asks of the machine and what it writes, read off the spec's
tables one row at a time; when an instruction is ready to run; what a completed instruction leaves; the invariant. -/

namespace Sys2Proof

/-! ### The rows of the opcode table, column by column -/

/-- The register an instruction writes (30_encoding.md rule R58, column dst). -/
inductive Dest where
  | mm (r : BitVec 3)
  | vr (r : BitVec 5)
deriving DecidableEq, Repr

/-- The column "CPUID Feature Flag" (10_state.md rule R18, 30_encoding.md rule R52). -/
def Instr.features : Instr → List Feature
  | .psrawMmRm _ _ _ | .psrawMmImm _ _ _ | .psradMmRm _ _ _ | .psradMmImm _ _ _ => [.mmx]
  | .psrawXmmRm _ _ _ | .psrawXmmImm _ _ _ | .psradXmmRm _ _ _ | .psradXmmImm _ _ _ => [.sse2]
  | .vpsrawXmmRm _ _ _ _ | .vpsrawXmmImm _ _ _ _ | .vpsradXmmRm _ _ _ _ | .vpsradXmmImm _ _ _ _ => [.avx]
  | .vpsrawYmmRm _ _ _ _ | .vpsrawYmmImm _ _ _ _ | .vpsradYmmRm _ _ _ _ | .vpsradYmmImm _ _ _ _ => [.avx2]
  | .evpsrawXmmRm _ _ _ _ _ | .evpsrawYmmRm _ _ _ _ _ => [.avx512vl, .avx512bw]
  | .evpsrawXmmImm _ _ _ _ _ | .evpsrawYmmImm _ _ _ _ _ => [.avx512vl, .avx512bw]
  | .evpsrawZmmRm _ _ _ _ _ | .evpsrawZmmImm _ _ _ _ _ => [.avx512bw]
  | .evpsradXmmRm _ _ _ _ | .evpsradYmmRm _ _ _ _ | .evpsraqXmmRm _ _ _ _ | .evpsraqYmmRm _ _ _ _ =>
    [.avx512vl, .avx512f]
  | .evpsradXmmImm _ _ _ _ | .evpsradYmmImm _ _ _ _ | .evpsraqXmmImm _ _ _ _ | .evpsraqYmmImm _ _ _ _ =>
    [.avx512vl, .avx512f]
  | .evpsradZmmRm _ _ _ _ | .evpsradZmmImm _ _ _ _ | .evpsraqZmmRm _ _ _ _ | .evpsraqZmmImm _ _ _ _ => [.avx512f]

/-- The class the operating system enables (10_state.md rule R19). -/
def Instr.osClass : Instr → OsClass
  | .psrawMmRm _ _ _ | .psrawMmImm _ _ _ | .psradMmRm _ _ _ | .psradMmImm _ _ _ => .mmx
  | .psrawXmmRm _ _ _ | .psrawXmmImm _ _ _ | .psradXmmRm _ _ _ | .psradXmmImm _ _ _ => .sse
  | .vpsrawXmmRm _ _ _ _ | .vpsrawXmmImm _ _ _ _ | .vpsradXmmRm _ _ _ _ | .vpsradXmmImm _ _ _ _ => .avx
  | .vpsrawYmmRm _ _ _ _ | .vpsrawYmmImm _ _ _ _ | .vpsradYmmRm _ _ _ _ | .vpsradYmmImm _ _ _ _ => .avx
  | .evpsrawXmmRm _ _ _ _ _ | .evpsrawYmmRm _ _ _ _ _ | .evpsrawZmmRm _ _ _ _ _ => .avx512
  | .evpsrawXmmImm _ _ _ _ _ | .evpsrawYmmImm _ _ _ _ _ | .evpsrawZmmImm _ _ _ _ _ => .avx512
  | .evpsradXmmRm _ _ _ _ | .evpsradYmmRm _ _ _ _ | .evpsradZmmRm _ _ _ _ => .avx512
  | .evpsradXmmImm _ _ _ _ | .evpsradYmmImm _ _ _ _ | .evpsradZmmImm _ _ _ _ => .avx512
  | .evpsraqXmmRm _ _ _ _ | .evpsraqYmmRm _ _ _ _ | .evpsraqZmmRm _ _ _ _ => .avx512
  | .evpsraqXmmImm _ _ _ _ | .evpsraqYmmImm _ _ _ _ | .evpsraqZmmImm _ _ _ _ => .avx512

/-- The vector length in bits (00_scope.md rule R8, `VL`). -/
def Instr.vl : Instr → Nat
  | .psrawMmRm _ _ _ | .psrawMmImm _ _ _ | .psradMmRm _ _ _ | .psradMmImm _ _ _ => 64
  | .psrawXmmRm _ _ _ | .psrawXmmImm _ _ _ | .psradXmmRm _ _ _ | .psradXmmImm _ _ _ => 128
  | .vpsrawXmmRm _ _ _ _ | .vpsrawXmmImm _ _ _ _ | .vpsradXmmRm _ _ _ _ | .vpsradXmmImm _ _ _ _ => 128
  | .vpsrawYmmRm _ _ _ _ | .vpsrawYmmImm _ _ _ _ | .vpsradYmmRm _ _ _ _ | .vpsradYmmImm _ _ _ _ => 256
  | .evpsrawXmmRm _ _ _ _ _ | .evpsrawXmmImm _ _ _ _ _ | .evpsradXmmRm _ _ _ _ | .evpsradXmmImm _ _ _ _ => 128
  | .evpsraqXmmRm _ _ _ _ | .evpsraqXmmImm _ _ _ _ => 128
  | .evpsrawYmmRm _ _ _ _ _ | .evpsrawYmmImm _ _ _ _ _ | .evpsradYmmRm _ _ _ _ | .evpsradYmmImm _ _ _ _ => 256
  | .evpsraqYmmRm _ _ _ _ | .evpsraqYmmImm _ _ _ _ => 256
  | .evpsrawZmmRm _ _ _ _ _ | .evpsrawZmmImm _ _ _ _ _ | .evpsradZmmRm _ _ _ _ | .evpsradZmmImm _ _ _ _ => 512
  | .evpsraqZmmRm _ _ _ _ | .evpsraqZmmImm _ _ _ _ => 512

/-- The writemask field of an EVEX row and the number `KL` of lanes it selects from (40_shift_core.md rules R93, R94). -/
def Instr.mask : Instr → Option (Mask × Nat)
  | .psrawMmRm _ _ _ | .psrawMmImm _ _ _ | .psradMmRm _ _ _ | .psradMmImm _ _ _ => none
  | .psrawXmmRm _ _ _ | .psrawXmmImm _ _ _ | .psradXmmRm _ _ _ | .psradXmmImm _ _ _ => none
  | .vpsrawXmmRm _ _ _ _ | .vpsrawXmmImm _ _ _ _ | .vpsradXmmRm _ _ _ _ | .vpsradXmmImm _ _ _ _ => none
  | .vpsrawYmmRm _ _ _ _ | .vpsrawYmmImm _ _ _ _ | .vpsradYmmRm _ _ _ _ | .vpsradYmmImm _ _ _ _ => none
  | .evpsrawXmmRm _ m _ _ _ | .evpsrawXmmImm _ m _ _ _ => some (m, 8)
  | .evpsrawYmmRm _ m _ _ _ | .evpsrawYmmImm _ m _ _ _ => some (m, 16)
  | .evpsrawZmmRm _ m _ _ _ | .evpsrawZmmImm _ m _ _ _ => some (m, 32)
  | .evpsradXmmRm m _ _ _ | .evpsradXmmImm m _ _ _ => some (m, 4)
  | .evpsradYmmRm m _ _ _ | .evpsradYmmImm m _ _ _ => some (m, 8)
  | .evpsradZmmRm m _ _ _ | .evpsradZmmImm m _ _ _ => some (m, 16)
  | .evpsraqXmmRm m _ _ _ | .evpsraqXmmImm m _ _ _ => some (m, 2)
  | .evpsraqYmmRm m _ _ _ | .evpsraqYmmImm m _ _ _ => some (m, 4)
  | .evpsraqZmmRm m _ _ _ | .evpsraqZmmImm m _ _ _ => some (m, 8)

/-- How many opmask bits an instruction reads: none without a writemask, else one a lane (10_state.md rule R13). -/
def Instr.maskBits (i : Instr) : Nat :=
  match i.mask with
  | none => 0
  | some (m, lanes) => if m.k = 0#3 then 0 else lanes

/-- The opmask register an instruction reads, if any: `K[0]` is never a writemask (10_state.md rule R13). -/
def Instr.maskRegs (i : Instr) : List (BitVec 3) :=
  match i.mask with
  | none => []
  | some (m, _) => if m.k = 0#3 then [] else [m.k]

/-- The register written (30_encoding.md rules R51, R58). -/
def Instr.dest : Instr → Dest
  | .psrawMmRm _ d _ | .psrawMmImm _ d _ | .psradMmRm _ d _ | .psradMmImm _ d _ => .mm d
  | .psrawXmmRm _ d _ | .psrawXmmImm _ d _ | .psradXmmRm _ d _ | .psradXmmImm _ d _ => .vr (d.setWidth 5)
  | .vpsrawXmmRm _ d _ _ | .vpsrawXmmImm _ d _ _ | .vpsradXmmRm _ d _ _ | .vpsradXmmImm _ d _ _ =>
    .vr (d.setWidth 5)
  | .vpsrawYmmRm _ d _ _ | .vpsrawYmmImm _ d _ _ | .vpsradYmmRm _ d _ _ | .vpsradYmmImm _ d _ _ =>
    .vr (d.setWidth 5)
  | .evpsrawXmmRm _ _ d _ _ | .evpsrawYmmRm _ _ d _ _ | .evpsrawZmmRm _ _ d _ _ => .vr d
  | .evpsrawXmmImm _ _ d _ _ | .evpsrawYmmImm _ _ d _ _ | .evpsrawZmmImm _ _ d _ _ => .vr d
  | .evpsradXmmRm _ d _ _ | .evpsradYmmRm _ d _ _ | .evpsradZmmRm _ d _ _ => .vr d
  | .evpsradXmmImm _ d _ _ | .evpsradYmmImm _ d _ _ | .evpsradZmmImm _ d _ _ => .vr d
  | .evpsraqXmmRm _ d _ _ | .evpsraqYmmRm _ d _ _ | .evpsraqZmmRm _ d _ _ => .vr d
  | .evpsraqXmmImm _ d _ _ | .evpsraqYmmImm _ d _ _ | .evpsraqZmmImm _ d _ _ => .vr d

/-- The register of an r/m operand, in the file of 32 vector registers. -/
def RegMem.numbers {n : Nat} : RegMem n → List (BitVec 5)
  | .reg r => [r.setWidth 5]
  | .mem _ => []

def Source.numbers : Source → List (BitVec 5)
  | .reg r => [r]
  | .mem _ | .bcst _ => []

/-- The register of an r/m operand, in the file of 8 MMX registers. -/
def RegMem.mmNumbers : RegMem 3 → List (BitVec 3)
  | .reg r => [r]
  | .mem _ => []

/-- Every MMX register an instruction names (30_encoding.md rule R58): rows 1, 3, 5, 7 alone name any. -/
def Instr.mmRegs : Instr → List (BitVec 3)
  | .psrawMmRm _ d c | .psradMmRm _ d c => d :: c.mmNumbers
  | .psrawMmImm _ d _ | .psradMmImm _ d _ => [d]
  | _ => []

/-- Every vector register an instruction names (30_encoding.md rule R58). -/
def Instr.vectorRegs : Instr → List (BitVec 5)
  | .psrawMmRm _ _ _ | .psrawMmImm _ _ _ | .psradMmRm _ _ _ | .psradMmImm _ _ _ => []
  | .psrawXmmRm _ d c | .psradXmmRm _ d c => d.setWidth 5 :: c.numbers
  | .psrawXmmImm _ d _ | .psradXmmImm _ d _ => [d.setWidth 5]
  | .vpsrawXmmRm _ d a c | .vpsradXmmRm _ d a c | .vpsrawYmmRm _ d a c | .vpsradYmmRm _ d a c =>
    d.setWidth 5 :: a.setWidth 5 :: c.numbers
  | .vpsrawXmmImm _ d a _ | .vpsradXmmImm _ d a _ | .vpsrawYmmImm _ d a _ | .vpsradYmmImm _ d a _ =>
    [d.setWidth 5, a.setWidth 5]
  | .evpsrawXmmRm _ _ d a c | .evpsrawYmmRm _ _ d a c | .evpsrawZmmRm _ _ d a c => d :: a :: c.numbers
  | .evpsrawXmmImm _ _ d a _ | .evpsrawYmmImm _ _ d a _ | .evpsrawZmmImm _ _ d a _ => d :: a.numbers
  | .evpsradXmmRm _ d a c | .evpsradYmmRm _ d a c | .evpsradZmmRm _ d a c => d :: a :: c.numbers
  | .evpsradXmmImm _ d a _ | .evpsradYmmImm _ d a _ | .evpsradZmmImm _ d a _ => d :: a.numbers
  | .evpsraqXmmRm _ d a c | .evpsraqYmmRm _ d a c | .evpsraqZmmRm _ d a c => d :: a :: c.numbers
  | .evpsraqXmmImm _ d a _ | .evpsraqYmmImm _ d a _ | .evpsraqZmmImm _ d a _ => d :: a.numbers

/-- A memory operand as a row uses it (20_memory.md rule R33): the operand, the bytes loaded, the disp8 scale of
30_encoding.md rule R63. -/
structure Access where
  mem : Mem
  bytes : Nat
  scale : Nat
deriving DecidableEq, Repr

def RegMem.access {n : Nat} (bytes scale : Nat) : RegMem n → Option Access
  | .reg _ => none
  | .mem m => some ⟨m, bytes, scale⟩

/-- A tuple Full operand: the whole vector, or one element. -/
def Source.access (bytes element : Nat) : Source → Option Access
  | .reg _ => none
  | .mem m => some ⟨m, bytes, bytes⟩
  | .bcst m => some ⟨m, element, element⟩

/-- The memory operand of an instruction, if it has one (20_memory.md rule R33). -/
def Instr.access : Instr → Option Access
  | .psrawMmRm _ _ c | .psradMmRm _ _ c => c.access 8 1
  | .psrawXmmRm _ _ c | .psradXmmRm _ _ c => c.access 16 1
  | .psrawMmImm _ _ _ | .psradMmImm _ _ _ | .psrawXmmImm _ _ _ | .psradXmmImm _ _ _ => none
  | .vpsrawXmmRm _ _ _ c | .vpsradXmmRm _ _ _ c | .vpsrawYmmRm _ _ _ c | .vpsradYmmRm _ _ _ c => c.access 16 1
  | .vpsrawXmmImm _ _ _ _ | .vpsradXmmImm _ _ _ _ | .vpsrawYmmImm _ _ _ _ | .vpsradYmmImm _ _ _ _ => none
  | .evpsrawXmmRm _ _ _ _ c | .evpsrawYmmRm _ _ _ _ c | .evpsrawZmmRm _ _ _ _ c => c.access 16 16
  | .evpsrawXmmImm _ _ _ a _ => a.access 16 16
  | .evpsrawYmmImm _ _ _ a _ => a.access 32 32
  | .evpsrawZmmImm _ _ _ a _ => a.access 64 64
  | .evpsradXmmRm _ _ _ c | .evpsradYmmRm _ _ _ c | .evpsradZmmRm _ _ _ c => c.access 16 16
  | .evpsradXmmImm _ _ a _ => a.access 16 4
  | .evpsradYmmImm _ _ a _ => a.access 32 4
  | .evpsradZmmImm _ _ a _ => a.access 64 4
  | .evpsraqXmmRm _ _ _ c | .evpsraqYmmRm _ _ _ c | .evpsraqZmmRm _ _ _ c => c.access 16 16
  | .evpsraqXmmImm _ _ a _ => a.access 16 8
  | .evpsraqYmmImm _ _ a _ => a.access 32 8
  | .evpsraqZmmImm _ _ a _ => a.access 64 8

/-- The rows whose 16-byte memory count must be aligned: rows 2 and 6 (20_memory.md rule R36). -/
def Instr.alignedRow : Instr → Bool
  | .psrawXmmRm _ _ _ | .psradXmmRm _ _ _ => true
  | _ => false

/-- The rows of tuple type Full, the only ones a masked-off lane may exempt: 26 to 28, 32 to 34 (20_memory.md rule R47). -/
def Instr.fullRow : Instr → Bool
  | .evpsradXmmImm _ _ _ _ | .evpsradYmmImm _ _ _ _ | .evpsradZmmImm _ _ _ _ => true
  | .evpsraqXmmImm _ _ _ _ | .evpsraqYmmImm _ _ _ _ | .evpsraqZmmImm _ _ _ _ => true
  | _ => false

/-- The instructions encoded without VEX or EVEX (00_scope.md section 6). -/
def Instr.isLegacy (i : Instr) : Bool := i.osClass == .mmx || i.osClass == .sse

end Sys2Proof

namespace Sys2Proof.Machine

/-! ### Ready to run -/

/-- A cause of #UD once the row is known (60_exceptions.md rule R152 causes 1 and 2; 30_encoding.md rule R61). -/
def Undefined (p : Params) (i : Instr) : Prop :=
  (∃ f ∈ i.features, p.feat.has f = false) ∨ p.os.enabled i.osClass = false ∨ ∃ r ∈ i.vectorRegs, p.nvr ≤ r.toNat

/-- The registers an instruction works on are there and wide enough (10_state.md rules R10, R12, R13; 43_evex_vpsraw.md): its
vector within MAXVL, its lanes within KW, its MMX registers below NMM, its writemask below NK. -/
structure ViewsPresent (p : Params) (i : Instr) : Prop where
  width : i.vl ≤ p.maxvl.bits
  maskWidth : i.maskBits ≤ p.kw.bits
  mm : ∀ r ∈ i.mmRegs, r.toNat < p.nmm
  mask : ∀ r ∈ i.maskRegs, r.toNat < p.nk

/-- The enable checks pass and the registers are as wide as the row works on (60_exceptions.md rules R152, R153). -/
structure Ready (s : State) (i : Instr) : Prop where
  mode : s.params.mode = .mode64
  defined : ¬ Undefined s.params i
  notSwitched : s.params.tsSet = false
  noX87 : i.osClass = .mmx → s.params.x87Pending = false
  views : ViewsPresent s.params i

/-- The address of an instruction's memory operand. -/
def operandAddress (s : State) (i : Instr) (a : Access) : Addr := s.ea (encode i).length a.scale a.mem

/-! ### What a completed instruction leaves -/

/-- Everything but one vector register and the program counter is as before, every byte of memory included. -/
structure OnlyVr (d : BitVec 5) (s t : State) : Prop where
  vr : ∀ r, r ≠ d → t.readVr r = s.readVr r
  mm : ∀ r, t.readMm r = s.readMm r
  k : ∀ r, t.readK r = s.readK r
  gpr : ∀ r, t.readGpr r = s.readGpr r
  rflags : t.rflags = s.rflags
  mxcsr : t.mxcsr = s.mxcsr
  params : t.params = s.params
  mem : ∀ a, t.byteAt a = s.byteAt a

/-- Everything but one MMX register and the program counter is as before, every byte of memory included. -/
structure OnlyMm (d : BitVec 3) (s t : State) : Prop where
  mm : ∀ r, r ≠ d → t.readMm r = s.readMm r
  vr : ∀ r, t.readVr r = s.readVr r
  k : ∀ r, t.readK r = s.readK r
  gpr : ∀ r, t.readGpr r = s.readGpr r
  rflags : t.rflags = s.rflags
  mxcsr : t.mxcsr = s.mxcsr
  params : t.params = s.params
  mem : ∀ a, t.byteAt a = s.byteAt a

/-- The effect on an MMX destination: lane `j` of `n` bits is `value j`, `rip` moves past the instruction, nothing else
changes. -/
structure MmEffect (n : Nat) (d : BitVec 3) (value : Nat → BitVec n) (i : Instr) (s t : State) : Prop where
  lanes : ∀ j, j < 64 / n → lane n (t.readMm d) j = value j
  rip : t.rip = s.rip + BitVec.ofNat 64 (encode i).length
  frame : OnlyMm d s t

/-- The effect on a vector destination: lane `j` of the low `vl` bits is `value j`, bit `k` from `vl` up is `upper k`, `rip`
moves past the instruction, nothing else changes. -/
structure VrEffect (n vl : Nat) (d : BitVec 5) (value : Nat → BitVec n) (upper : Nat → Bool) (i : Instr) (s t : State) :
    Prop where
  lanes : ∀ j, j < vl / n → lane n (t.view vl d) j = value j
  upper : ∀ k, vl ≤ k → k < 512 → (t.readVr d).getLsbD k = upper k
  rip : t.rip = s.rip + BitVec.ofNat 64 (encode i).length
  frame : OnlyVr d s t

/-- The bits a legacy 128-bit row keeps (10_state.md rule R11). -/
def kept (s : State) (d : BitVec 5) (k : Nat) : Bool := (s.readVr d).getLsbD k

/-- The bits a VEX or EVEX row zeroes (10_state.md rule R11). -/
def zeroed (_ : Nat) : Bool := false

/-- A lane under a writemask (40_shift_core.md rule R94): `result` where selected, else zero or the old lane. -/
def underMask (s : State) (n vl : Nat) (m : Mask) (d : BitVec 5) (result : Nat → BitVec n) (j : Nat) : BitVec n :=
  if m.k = 0#3 ∨ (s.readK m.k).getLsbD j = true then result j
  else if m.z = true then 0#n
  else lane n (s.view vl d) j

/-! ### Operands, read by the spec's words -/

/-- `c` is the count of an MMX row's register or memory operand: all 64 bits (40_shift_core.md rule R92). A memory operand is
accessible, and aligned where alignment is checked (20_memory.md rule R36). -/
def MmCount (s : State) (i : Instr) (c : Nat) : RegMem 3 → Prop
  | .reg r => c = (s.readMm r).toNat
  | .mem m =>
    accessible s.params .data (s.ea (encode i).length 1 m) 8 = true ∧
      (s.params.acEnabled = true → (s.ea (encode i).length 1 m).toNat % 8 = 0) ∧
      c = s.readLE (s.ea (encode i).length 1 m) 8

/-- `c` is the count of a 128-bit register or memory operand: its low 64 bits (40_shift_core.md rule R92). All 16 bytes of a
memory operand are accessible, and aligned on rows 2 and 6. -/
def XmmCount (s : State) (i : Instr) (scale c : Nat) : RegMem 5 → Prop
  | .reg r => c = ((s.readVr r).extractLsb' 0 64).toNat
  | .mem m =>
    accessible s.params .data (s.ea (encode i).length scale m) 16 = true ∧
      (i.alignedRow = true → (s.ea (encode i).length scale m).toNat % 16 = 0) ∧
      c = s.readLE (s.ea (encode i).length scale m) 8

/-- Lane `j` of `n` bits of a memory operand: `n/8` bytes, low byte first (20_memory.md rule R31). -/
def memLane (s : State) (n : Nat) (a : Addr) (j : Nat) : BitVec n :=
  BitVec.ofNat n (s.readLE (a + BitVec.ofNat 64 (j * (n / 8))) (n / 8))

/-- `value` gives the lanes of a tuple Full Mem source; a memory operand is accessible whole. -/
def FullMemLanes (s : State) (i : Instr) (n vl : Nat) (value : Nat → BitVec n) : RegMem 5 → Prop
  | .reg r => value = lane n (s.view vl r)
  | .mem m =>
    accessible s.params .data (s.ea (encode i).length (vl / 8) m) (vl / 8) = true ∧
      value = memLane s n (s.ea (encode i).length (vl / 8) m)

/-- `value` gives the lanes of a tuple Full source; a memory operand, or the broadcast element, is accessible whole. -/
def FullLanes (s : State) (i : Instr) (n vl : Nat) (value : Nat → BitVec n) : Source → Prop
  | .reg r => value = lane n (s.view vl r)
  | .mem m =>
    accessible s.params .data (s.ea (encode i).length (vl / 8) m) (vl / 8) = true ∧
      value = memLane s n (s.ea (encode i).length (vl / 8) m)
  | .bcst m =>
    accessible s.params .data (s.ea (encode i).length (n / 8) m) (n / 8) = true ∧
      value = fun _ => memLane s n (s.ea (encode i).length (n / 8) m) 0

/-! ### Two runs compared -/

/-- The same outcome, its next state changed by `f`. -/
def mapNext (f : State → State) : Result → Result
  | .next s => .next (f s)
  | .fault x => .fault x
  | .refused r => .refused r

/-- What decides whether an instruction faults (60_exceptions.md rules R151, R156): the configuration, the program counter,
and the registers that form addresses. -/
structure SameAddressing (s t : State) : Prop where
  params : t.params = s.params
  rip : t.rip = s.rip
  gpr : ∀ r, t.readGpr r = s.readGpr r

/-- Bytes stand in memory from an address on, and may be fetched. -/
def Holds (s : State) (a : Addr) (bs : List Byte) : Prop :=
  ∀ k, (h : k < bs.length) →
    accessibleByte s.params .fetch (a + BitVec.ofNat 64 k) = true ∧ s.byteAt (a + BitVec.ofNat 64 k) = bs[k]

/-! ### The invariant -/

/-- What every step keeps: memory is canonical, and no register holds anything outside the machine its configuration
describes: bits from MAXVL up, vector registers from NVR up, MMX registers from NMM up, opmask bits from KW up, opmask
registers from NK up (00_scope.md rule R5; 10_state.md rules R10, R12, R13). -/
structure Inv (s : State) : Prop where
  mem : Memory.wf s.mem = true
  width : ∀ r k, s.params.maxvl.bits ≤ k → (s.readVr r).getLsbD k = false
  absent : ∀ r : BitVec 5, s.params.nvr ≤ r.toNat → s.readVr r = 0#512
  mask : ∀ r k, s.params.kw.bits ≤ k → (s.readK r).getLsbD k = false
  absentMm : ∀ r : BitVec 3, s.params.nmm ≤ r.toNat → s.readMm r = 0#64
  absentMask : ∀ r : BitVec 3, s.params.nk ≤ r.toNat → s.readK r = 0#64

end Sys2Proof.Machine
end

