-- ==== Sys2Proof/Certificates/Slice0/Obligations.lean ====
section
/-! DEFINITION. The statements for the provers, and the shapes several of them share. -/

open Sys2Proof Sys2Proof.Machine

namespace Sys2Proof.Claims

/-! ### Shapes of a result statement, one per operand form. `row` is a constructor of `Instr` -/

/-- An MMX row with a register or memory count (rules R100, R104). -/
def MmxByOperand (n : Nat) (row : Bool → BitVec 3 → RegMem 3 → Instr) : Prop :=
  ∀ (s : State) (rex : Bool) (d : BitVec 3) (cnt : RegMem 3) (c : Nat),
    Ready s (row rex d cnt) → MmCount s (row rex d cnt) c cnt →
    ∃ t, exec (row rex d cnt) s = .next t ∧
      MmEffect n d (fun j => sra (lane n (s.readMm d) j) c) (row rex d cnt) s t

/-- An MMX row with an immediate count (rules R102, R106). -/
def MmxByImmediate (n : Nat) (row : Bool → BitVec 3 → BitVec 8 → Instr) : Prop :=
  ∀ (s : State) (rex : Bool) (d : BitVec 3) (imm : BitVec 8), Ready s (row rex d imm) →
    ∃ t, exec (row rex d imm) s = .next t ∧
      MmEffect n d (fun j => sra (lane n (s.readMm d) j) imm.toNat) (row rex d imm) s t

/-- A legacy 128-bit row with a register or memory count (rules R101, R105). -/
def SseByOperand (n : Nat) (row : Bool → BitVec 4 → RegMem 4 → Instr) : Prop :=
  ∀ (s : State) (rex : Bool) (d : BitVec 4) (cnt : RegMem 4) (c : Nat),
    Ready s (row rex d cnt) → XmmCount s (row rex d cnt) 1 c (wideRm cnt) →
    ∃ t, exec (row rex d cnt) s = .next t ∧
      VrEffect n 128 (wide d) (fun j => sra (lane n (s.view 128 (wide d)) j) c) (kept s (wide d)) (row rex d cnt) s t

/-- A legacy 128-bit row with an immediate count (rules R103, R107). -/
def SseByImmediate (n : Nat) (row : Bool → BitVec 4 → BitVec 8 → Instr) : Prop :=
  ∀ (s : State) (rex : Bool) (d : BitVec 4) (imm : BitVec 8), Ready s (row rex d imm) →
    ∃ t, exec (row rex d imm) s = .next t ∧
      VrEffect n 128 (wide d) (fun j => sra (lane n (s.view 128 (wide d)) j) imm.toNat) (kept s (wide d))
        (row rex d imm) s t

/-- A VEX row with a register or memory count (rules R110, R112, R114, R116). -/
def VexByOperand (n vl : Nat) (row : VexForm → BitVec 4 → BitVec 4 → RegMem 4 → Instr) : Prop :=
  ∀ (s : State) (f : VexForm) (d src : BitVec 4) (cnt : RegMem 4) (c : Nat),
    Ready s (row f d src cnt) → XmmCount s (row f d src cnt) 1 c (wideRm cnt) →
    ∃ t, exec (row f d src cnt) s = .next t ∧
      VrEffect n vl (wide d) (fun j => sra (lane n (s.view vl (wide src)) j) c) zeroed (row f d src cnt) s t

/-- A VEX row with an immediate count (rules R111, R113, R115, R117). -/
def VexByImmediate (n vl : Nat) (row : VexForm → BitVec 4 → BitVec 4 → BitVec 8 → Instr) : Prop :=
  ∀ (s : State) (f : VexForm) (d src : BitVec 4) (imm : BitVec 8), Ready s (row f d src imm) →
    ∃ t, exec (row f d src imm) s = .next t ∧
      VrEffect n vl (wide d) (fun j => sra (lane n (s.view vl (wide src)) j) imm.toNat) zeroed (row f d src imm) s t

/-- An EVEX row with a register or memory count, Op/En G (rules R120 to R122, R130 to R132, R140 to R142). -/
def EvexByOperand (n vl : Nat) (row : Mask → BitVec 5 → BitVec 5 → RegMem 5 → Instr) : Prop :=
  ∀ (s : State) (m : Mask) (d src : BitVec 5) (cnt : RegMem 5) (c : Nat),
    Ready s (row m d src cnt) → XmmCount s (row m d src cnt) 16 c cnt →
    ∃ t, exec (row m d src cnt) s = .next t ∧
      VrEffect n vl d (underMask s n vl m d fun j => sra (lane n (s.view vl src) j) c) zeroed (row m d src cnt) s t

/-- An EVEX row with an immediate count and tuple Full Mem, Op/En E (rules R123 to R125). -/
def EvexFullMem (n vl : Nat) (row : Mask → BitVec 5 → RegMem 5 → BitVec 8 → Instr) : Prop :=
  ∀ (s : State) (m : Mask) (d : BitVec 5) (src : RegMem 5) (imm : BitVec 8) (value : Nat → BitVec n),
    Ready s (row m d src imm) → FullMemLanes s (row m d src imm) n vl value src →
    ∃ t, exec (row m d src imm) s = .next t ∧
      VrEffect n vl d (underMask s n vl m d fun j => sra (value j) imm.toNat) zeroed (row m d src imm) s t

/-- An EVEX row with an immediate count and tuple Full, Op/En F (rules R133 to R135, R143 to R145). -/
def EvexFull (n vl : Nat) (row : Mask → BitVec 5 → Source → BitVec 8 → Instr) : Prop :=
  ∀ (s : State) (m : Mask) (d : BitVec 5) (src : Source) (imm : BitVec 8) (value : Nat → BitVec n),
    Ready s (row m d src imm) → FullLanes s (row m d src imm) n vl value src →
    ∃ t, exec (row m d src imm) s = .next t ∧
      VrEffect n vl d (underMask s n vl m d fun j => sra (value j) imm.toNat) zeroed (row m d src imm) s t

/-- A tuple Full row with FAULT_SUPPRESSION: a memory source needs only its selected lanes accessible; one selected lane that
is not accessible faults with the whole operand; a broadcast element needs to be accessible only if a lane is selected, and then faults with its own address and size. -/
def EvexSuppressed (n vl : Nat) (row : Mask → BitVec 5 → Source → BitVec 8 → Instr) : Prop :=
  (∀ (s : State) (m : Mask) (d : BitVec 5) (a : Mem) (imm : BitVec 8),
    Ready s (row m d (.mem a) imm) → s.params.faultSuppression = true →
    let ea := s.ea (encode (row m d (.mem a) imm)).length (vl / 8) a
    let laneOk := fun j => accessible s.params .data (ea + BitVec.ofNat 64 (j * (n / 8))) (n / 8)
    ((∀ j, j < vl / n → s.selected m j = true → laneOk j = true) →
      ∃ t, exec (row m d (.mem a) imm) s = .next t ∧
        VrEffect n vl d (underMask s n vl m d fun j => sra (memLane s n ea j) imm.toNat) zeroed
          (row m d (.mem a) imm) s t) ∧
    ((∃ j, j < vl / n ∧ s.selected m j = true ∧ laneOk j = false) →
      exec (row m d (.mem a) imm) s = .fault (.memFault ea (vl / 8)))) ∧
  (∀ (s : State) (m : Mask) (d : BitVec 5) (a : Mem) (imm : BitVec 8),
    Ready s (row m d (.bcst a) imm) → s.params.faultSuppression = true →
    let ea := s.ea (encode (row m d (.bcst a) imm)).length (n / 8) a
    ((∀ j, j < vl / n → s.selected m j = false) →
      ∃ t, exec (row m d (.bcst a) imm) s = .next t ∧
        VrEffect n vl d (fun j => if m.z = true then 0#n else lane n (s.view vl d) j) zeroed
          (row m d (.bcst a) imm) s t) ∧
    ((∃ j, j < vl / n ∧ s.selected m j = true) → accessible s.params .data ea (n / 8) = false →
      exec (row m d (.bcst a) imm) s = .fault (.memFault ea (n / 8))))

/-- Two instructions that both complete leave the same state but for the program counter. -/
def SameButRip (s : State) (i i' : Instr) : Prop :=
  ∀ t t', exec i s = .next t → exec i' s = .next t' → { t' with rip := t.rip } = t

/-- The class of instruction lengths (rule R50). -/
def lengthBounds (i : Instr) : Prop :=
  match i.osClass with
  | .mmx | .sse => 3 ≤ (encode i).length ∧ (encode i).length ≤ 11
  | .avx => 4 ≤ (encode i).length ∧ (encode i).length ≤ 11
  | .avx512 => 6 ≤ (encode i).length ∧ (encode i).length ≤ 12

/-- The address of a memory operand as an integer, before it is taken modulo 2^64 (rule R62). -/
def eaInt (s : State) (len scale : Nat) : Mem → Int
  | .base d b => (s.readGpr b).toNat + disp scale d
  | .rip d => s.rip.toNat + len + d.toInt
  | .sib d sc i b => (s.readGpr b).toNat + index s sc i + disp scale d
  | .sibNoBase sc i d => index s sc i + d.toInt
where
  disp (scale : Nat) : Disp → Int
    | .none => 0
    | .d8 v => v.toInt * scale
    | .d32 v => v.toInt
  index (s : State) (sc : BitVec 2) (i : BitVec 4) : Int :=
    if i = 4#4 then 0 else (s.readGpr i).toNat * 2 ^ sc.toNat

/-- The control-register condition of a class (rule R19). -/
def classOn (cr0 cr4 xcr0 : BitVec 64) : OsClass → Prop
  | .mmx => cr0.getLsbD 2 = false
  | .sse => cr0.getLsbD 2 = false ∧ cr4.getLsbD 9 = true
  | .avx => cr4.getLsbD 18 = true ∧ xcr0.getLsbD 1 = true ∧ xcr0.getLsbD 2 = true
  | .avx512 => cr4.getLsbD 18 = true ∧ xcr0.getLsbD 1 = true ∧ xcr0.getLsbD 2 = true ∧ xcr0.getLsbD 5 = true ∧
      xcr0.getLsbD 6 = true ∧ xcr0.getLsbD 7 = true

/-- Legacy prefix bytes and REX bytes only. -/
def AllPrefixes (pre : List Byte) : Prop := ∀ p ∈ pre, isLegacyByte p = true ∨ isRex p = true

/-- The bytes in front of the opcode byte that select a class of the table, after its prefix bytes: the escape byte, or a VEX or
EVEX prefix with `pp = 01` and map 0F (rules R50, R65). -/
def ClassHead (h : List Byte) : Prop :=
  h = [0x0F#8] ∨
  (∃ v : Byte, v.extractLsb' 0 2 = 1#2 ∧ h = [0xC5#8, v]) ∨
  (∃ v w : Byte, v.extractLsb' 0 5 = 1#5 ∧ w.extractLsb' 0 2 = 1#2 ∧ h = [0xC4#8, v, w]) ∨
  (∃ p q r : Byte, p.extractLsb' 0 3 = 1#3 ∧ q.extractLsb' 0 2 = 1#2 ∧ h = [0x62#8, p, q, r])

/-- The XMM row of the pair that a 66 byte tells apart (rules R53, R59). -/
def xmmOf : Instr → Option Instr
  | .psrawMmRm rex d (.reg r) => some (.psrawXmmRm rex (d.setWidth 4) (.reg (r.setWidth 4)))
  | .psrawMmRm rex d (.mem m) => some (.psrawXmmRm rex (d.setWidth 4) (.mem m))
  | .psradMmRm rex d (.reg r) => some (.psradXmmRm rex (d.setWidth 4) (.reg (r.setWidth 4)))
  | .psradMmRm rex d (.mem m) => some (.psradXmmRm rex (d.setWidth 4) (.mem m))
  | .psrawMmImm rex d imm => some (.psrawXmmImm rex (d.setWidth 4) imm)
  | .psradMmImm rex d imm => some (.psradXmmImm rex (d.setWidth 4) imm)
  | _ => none

/-- The verdict is the refusal of a bit that names nothing. -/
def Refuses (bs : List Byte) : Prop := ∃ bit, decode bs = .nonCanonical bit

/-- A REX byte with W, R, X, B. -/
def rexWrxb (w r x b : Bool) : Byte :=
  4#4 ++ (BitVec.ofBool w ++ (BitVec.ofBool r ++ (BitVec.ofBool x ++ BitVec.ofBool b)))

/-- The operand is a register number, or memory that a ModRM byte can spell (rule R62). -/
def rmSpelt : RmField → Bool
  | .reg _ => true
  | .mem m => m.wf

/-- What an operand puts behind the opcode byte; its extension bits stand in the prefix. -/
def rmCode : RmField → RmCode
  | .reg n => ⟨3#2, n, false, false, []⟩
  | .mem m => m.code

/-- From the opcode byte on: opcode, ModRM, SIB, displacement, the immediate where the opcode has one, and what follows. -/
def opBody (o : Opcode) (reg : BitVec 3) (c : RmField) (imm : Byte) (rest : List Byte) : List Byte :=
  bodyBytes o reg (rmCode c) (if o.isImm then [imm] else []) ++ rest

/-- The fault is one of those rule R151 gives the instruction's class. -/
def FaultOfClass (i : Instr) : Fault → Prop
  | .ud => True
  | .nm => True
  | .mf => i.osClass = .mmx
  | .gp0 => i.alignedRow = true ∧ i.access.isSome = true
  | .memFault _ _ => i.access.isSome = true
  | .fetchFault _ => False

end Sys2Proof.Claims

open Sys2Proof.Claims

/-! ### What each instruction does, and that it completes -/

/-- Rows 1 and 5 complete and shift each word or doubleword of the MMX register by the 64-bit count (R100, R104). -/
def Obligations.MmxShiftsByOperand : Prop := MmxByOperand 16 .psrawMmRm ∧ MmxByOperand 32 .psradMmRm

/-- Rows 3 and 7 complete and shift by the immediate byte (R102, R106). -/
def Obligations.MmxShiftsByImmediate : Prop := MmxByImmediate 16 .psrawMmImm ∧ MmxByImmediate 32 .psradMmImm

/-- Rows 2 and 6 complete, shift bits 127:0 by the low 64 bits of the count operand, and keep the bits above (R101, R105). -/
def Obligations.SseShiftsByOperand : Prop := SseByOperand 16 .psrawXmmRm ∧ SseByOperand 32 .psradXmmRm

/-- Rows 4 and 8 complete, shift bits 127:0 by the immediate byte, and keep the bits above (R103, R107). -/
def Obligations.SseShiftsByImmediate : Prop := SseByImmediate 16 .psrawXmmImm ∧ SseByImmediate 32 .psradXmmImm

/-- Rows 9, 11, 13, 15 complete, shift the source by the low 64 bits of the count operand, and zero the bits above the vector
length (R110, R112, R114, R116). -/
def Obligations.VexShiftsByOperand : Prop :=
  VexByOperand 16 128 .vpsrawXmmRm ∧ VexByOperand 32 128 .vpsradXmmRm ∧
  VexByOperand 16 256 .vpsrawYmmRm ∧ VexByOperand 32 256 .vpsradYmmRm

/-- Rows 10, 12, 14, 16 complete, shift the source by the immediate byte, and zero the bits above the vector length (R111,
R113, R115, R117). -/
def Obligations.VexShiftsByImmediate : Prop :=
  VexByImmediate 16 128 .vpsrawXmmImm ∧ VexByImmediate 32 128 .vpsradXmmImm ∧
  VexByImmediate 16 256 .vpsrawYmmImm ∧ VexByImmediate 32 256 .vpsradYmmImm

/-- Rows 17, 18, 19 complete, shift words under the writemask by the low 64 bits of the count operand, and zero the bits above
the vector length (R120, R121, R122; masking and zeroing are the spec's decisions D12, D13). -/
def Obligations.EvexWordsShiftByOperand : Prop :=
  ∀ w : Bool, EvexByOperand 16 128 (.evpsrawXmmRm w) ∧ EvexByOperand 16 256 (.evpsrawYmmRm w) ∧
    EvexByOperand 16 512 (.evpsrawZmmRm w)

/-- Rows 20, 21, 22 complete and shift the words of a register or of memory under the writemask by the immediate byte (R123,
R124, R125; decisions D12, D13). -/
def Obligations.EvexWordsShiftByImmediate : Prop :=
  ∀ w : Bool, EvexFullMem 16 128 (.evpsrawXmmImm w) ∧ EvexFullMem 16 256 (.evpsrawYmmImm w) ∧
    EvexFullMem 16 512 (.evpsrawZmmImm w)

/-- Rows 23, 24, 25 complete and shift doublewords under the writemask by the low 64 bits of the count operand (R130, R131,
R132; decisions D12, D13). -/
def Obligations.EvexDoublewordsShiftByOperand : Prop :=
  EvexByOperand 32 128 .evpsradXmmRm ∧ EvexByOperand 32 256 .evpsradYmmRm ∧ EvexByOperand 32 512 .evpsradZmmRm

/-- Rows 26, 27, 28 complete and shift the doublewords of a register, of memory or of a broadcast element under the writemask
by the immediate byte (R133, R134, R135; decisions D12, D13, D14). -/
def Obligations.EvexDoublewordsShiftByImmediate : Prop :=
  EvexFull 32 128 .evpsradXmmImm ∧ EvexFull 32 256 .evpsradYmmImm ∧ EvexFull 32 512 .evpsradZmmImm

/-- Rows 29, 30, 31 complete and shift quadwords under the writemask by the low 64 bits of the count operand (R140, R141,
R142; decisions D12, D13). -/
def Obligations.EvexQuadwordsShiftByOperand : Prop :=
  EvexByOperand 64 128 .evpsraqXmmRm ∧ EvexByOperand 64 256 .evpsraqYmmRm ∧ EvexByOperand 64 512 .evpsraqZmmRm

/-- Rows 32, 33, 34 complete and shift the quadwords of a register, of memory or of a broadcast element under the writemask by
the immediate byte (R143, R144, R145; decisions D12, D13, D14). -/
def Obligations.EvexQuadwordsShiftByImmediate : Prop :=
  EvexFull 64 128 .evpsraqXmmImm ∧ EvexFull 64 256 .evpsraqYmmImm ∧ EvexFull 64 512 .evpsraqZmmImm

/-- With FAULT_SUPPRESSION the tuple Full rows need only the lanes the mask selects (R47; what `true` means is the model's
choice, log entry 7). -/
def Obligations.SuppressedLanesDoNotFault : Prop :=
  EvexSuppressed 32 128 .evpsradXmmImm ∧ EvexSuppressed 32 256 .evpsradYmmImm ∧ EvexSuppressed 32 512 .evpsradZmmImm ∧
  EvexSuppressed 64 128 .evpsraqXmmImm ∧ EvexSuppressed 64 256 .evpsraqYmmImm ∧ EvexSuppressed 64 512 .evpsraqZmmImm

/-! ### The lane function -/

/-- The lane function: sign copies in front of the top `n - c` bits, or sign copies throughout (R90). -/
def Obligations.LaneShiftCopiesTheSign : Prop :=
  ∀ (n : Nat), n = 16 ∨ n = 32 ∨ n = 64 → ∀ (x : BitVec n) (c : Nat),
    (sra x c).toNat =
      if c > n - 1 then (if x.msb then 2 ^ n - 1 else 0)
      else (if x.msb then (2 ^ c - 1) * 2 ^ (n - c) else 0) + x.toNat / 2 ^ c

/-- Lane by lane, no bit crossing a lane boundary: bit `i` of result lane `j` is bit `i + c` of source lane `j`, or that lane's
sign bit (R93). -/
def Obligations.PackedShiftStaysInLanes : Prop :=
  ∀ (n vl : Nat), n = 16 ∨ n = 32 ∨ n = 64 → vl = 64 ∨ vl = 128 ∨ vl = 256 ∨ vl = 512 →
    ∀ (v : BitVec vl) (c j i : Nat), j < vl / n → i < n →
      lane n (packedSra n v c) j = sra (lane n v j) c ∧
      (packedSra n v c).getLsbD (n * j + i) =
        if i + c < n then v.getLsbD (n * j + i + c) else v.getLsbD (n * j + n - 1)

/-- Rounding toward minus infinity, for counts of any size (R91 law 1). -/
def Obligations.LaneShiftIsFloorDivision : Prop :=
  ∀ (n : Nat), n = 16 ∨ n = 32 ∨ n = 64 → ∀ (x : BitVec n) (c : Nat), (sra x c).toInt = x.toInt / 2 ^ c

/-- The count saturates, shifts compose, and the sign of the result is the sign of the lane (R91 laws 2, 4, 5). -/
def Obligations.LaneShiftSaturatesAndComposes : Prop :=
  ∀ (n : Nat), n = 16 ∨ n = 32 ∨ n = 64 → ∀ (x : BitVec n) (a b : Nat),
    sra x a = sra x (min a (n - 1)) ∧ sra (sra x a) b = sra x (a + b) ∧
    (0 ≤ x.toInt → 0 ≤ (sra x a).toInt ∧ (sra x a).toInt ≤ x.toInt) ∧
    (x.toInt < 0 → x.toInt ≤ (sra x a).toInt ∧ (sra x a).toInt ≤ -1)

/-! ### Memory and addresses -/

/-- A read is little-endian, wraps at the top of the address space, and is checked whole before it (R31; the byte order is the
spec's decision D3). -/
def Obligations.ReadsAreLittleEndian : Prop :=
  ∀ (s : State) (a : Addr) (n : Nat), n = 4 ∨ n = 8 ∨ n = 16 ∨ n = 32 ∨ n = 64 →
    (∀ i, i < n → (s.memRead (8 * n) a).extractLsb' (8 * i) 8 = s.byteAt (a + BitVec.ofNat 64 i)) ∧
    (accessible s.params .data a n = true → load (8 * n) s a = .ok (s.memRead (8 * n) a)) ∧
    (accessible s.params .data a n = false → load (8 * n) s a = .error (.memFault a n))

/-- A write sets the bytes it names and no other, and no instruction writes memory (R32). -/
def Obligations.WritesSetTheirBytes : Prop :=
  (∀ (s : State) (a : Addr) (n : Nat) (v : BitVec (8 * n)), Memory.wf s.mem = true → n ≤ 2 ^ 64 →
    Memory.wf (s.memWrite a n v).mem = true ∧
    { s.memWrite a n v with mem := s.mem } = s ∧
    (∀ i, i < n → (s.memWrite a n v).byteAt (a + BitVec.ofNat 64 i) = v.extractLsb' (8 * i) 8) ∧
    (∀ b, (∀ i, i < n → b ≠ a + BitVec.ofNat 64 i) → (s.memWrite a n v).byteAt b = s.byteAt b)) ∧
  (∀ (i : Instr) (s t : State), exec i s = .next t → t.mem = s.mem)

/-- Effective addresses are the sums of R62 modulo 2^64, disp8 sign-extended and scaled, disp32 sign-extended. -/
def Obligations.EffectiveAddressesWrap : Prop :=
  ∀ (s : State) (len scale : Nat) (m : Mem),
    ((s.ea len scale m).toNat : Int) = eaInt s len scale m % 2 ^ 64

/-- An access is allowed when each byte's address is canonical and in no region that denies the kind (R39, R154; the regions are
the model's form of the predicate, log entry 6). -/
def Obligations.AccessIsCheckedBytewise : Prop :=
  ∀ (p : Params) (kind : AccessKind) (a : Addr) (n : Nat),
    accessible p kind a n = true ↔ ∀ k, k < n →
      (p.linear = .la48 → -(2 ^ 47 : Int) ≤ (a + BitVec.ofNat 64 k).toInt ∧ (a + BitVec.ofNat 64 k).toInt < 2 ^ 47) ∧
      (p.linear = .la57 → -(2 ^ 56 : Int) ≤ (a + BitVec.ofNat 64 k).toInt ∧ (a + BitVec.ofNat 64 k).toInt < 2 ^ 56) ∧
      ∀ r ∈ p.denied, r.base ≤ (a + BitVec.ofNat 64 k).toNat → (a + BitVec.ofNat 64 k).toNat < r.base + r.size →
        (kind = .data → r.noData = false) ∧ (kind = .fetch → r.noFetch = false)

/-! ### Frames -/

/-- A completed instruction writes its destination register and `rip`, nothing else (R157, R95). -/
def Obligations.OnlyTheDestinationIsWritten : Prop :=
  ∀ (i : Instr) (s t : State), exec i s = .next t →
    match i.dest with
    | .vr d => OnlyVr d s t
    | .mm d => OnlyMm d s t

/-- Every instruction that completes continues at the next sequential address (R182). -/
def Obligations.CompletionFallsThrough : Prop :=
  ∀ (i : Instr) (s t : State), exec i s = .next t → t.rip = s.rip + BitVec.ofNat 64 (encode i).length

/-- RFLAGS and MXCSR are neither read nor written (R16, R17; the spec's decision D23, held as state by log entry 4). -/
def Obligations.FlagsAreNeitherReadNorWritten : Prop :=
  ∀ (i : Instr) (s : State) (f : BitVec 64) (x : BitVec 32),
    exec i { s with rflags := f, mxcsr := x } = mapNext (fun t => { t with rflags := f, mxcsr := x }) (exec i s)

/-- General registers matter only to an instruction with a memory operand (R14). -/
def Obligations.GeneralRegistersOnlyAddress : Prop :=
  ∀ (i : Instr) (s : State) (g : Vector (BitVec 64) 16), i.access = none →
    exec i { s with gpr := g } = mapNext (fun t => { t with gpr := g }) (exec i s)

/-- Of the opmask registers only the low KL bits of the selected one matter, and K[0] never does (R13, R94; decisions D13,
D30). -/
def Obligations.OnlyLowMaskBitsMatter : Prop :=
  ∀ (i : Instr) (s : State) (k' : Vector (BitVec 64) 8),
    (∀ m lanes, i.mask = some (m, lanes) → m.k ≠ 0#3 →
      ∀ j, j < lanes → (k'.get m.k.toFin).getLsbD j = (s.readK m.k).getLsbD j) →
    exec i { s with k := k' } = mapNext (fun t => { t with k := k' }) (exec i s)

/-- Where a VEX row and the EVEX row of the same shift without writemask both complete on register operands, they leave the same
registers (R120, R68). -/
def Obligations.UnmaskedEvexAgreesWithVex : Prop :=
  ∀ (s : State) (f : VexForm) (w z : Bool) (d a c : BitVec 4) (imm : BitVec 8),
    SameButRip s (.vpsrawXmmRm f d a (.reg c)) (.evpsrawXmmRm w ⟨0#3, z⟩ (wide d) (wide a) (.reg (wide c))) ∧
    SameButRip s (.vpsrawYmmRm f d a (.reg c)) (.evpsrawYmmRm w ⟨0#3, z⟩ (wide d) (wide a) (.reg (wide c))) ∧
    SameButRip s (.vpsradXmmRm f d a (.reg c)) (.evpsradXmmRm ⟨0#3, z⟩ (wide d) (wide a) (.reg (wide c))) ∧
    SameButRip s (.vpsradYmmRm f d a (.reg c)) (.evpsradYmmRm ⟨0#3, z⟩ (wide d) (wide a) (.reg (wide c))) ∧
    SameButRip s (.vpsrawXmmImm f d a imm) (.evpsrawXmmImm w ⟨0#3, z⟩ (wide d) (.reg (wide a)) imm) ∧
    SameButRip s (.vpsrawYmmImm f d a imm) (.evpsrawYmmImm w ⟨0#3, z⟩ (wide d) (.reg (wide a)) imm) ∧
    SameButRip s (.vpsradXmmImm f d a imm) (.evpsradXmmImm ⟨0#3, z⟩ (wide d) (.reg (wide a)) imm) ∧
    SameButRip s (.vpsradYmmImm f d a imm) (.evpsradYmmImm ⟨0#3, z⟩ (wide d) (.reg (wide a)) imm)

/-! ### Exceptions and refusals -/

/-- #UD before anything else, on exactly its causes (R152 causes 1 and 2, R61 the register number). -/
def Obligations.InvalidOpcodeExactlyOnItsCauses : Prop :=
  ∀ (i : Instr) (s : State),
    exec i s = .fault .ud ↔ s.params.mode = .mode64 ∧ Undefined s.params i

/-- #NM after the #UD checks, on every row; #MF after #NM, on the MMX rows only (R153, R156). -/
def Obligations.DeviceChecksComeInOrder : Prop :=
  ∀ (i : Instr) (s : State),
    (exec i s = .fault .nm ↔ s.params.mode = .mode64 ∧ ¬ Undefined s.params i ∧ s.params.tsSet = true) ∧
    (exec i s = .fault .mf ↔ s.params.mode = .mode64 ∧ ¬ Undefined s.params i ∧ s.params.tsSet = false ∧
      s.params.x87Pending = true ∧ i.osClass = .mmx)

/-- #GP(0) on exactly rows 2 and 6 with a memory count not 16-byte aligned, accessible or not (R36, R156). -/
def Obligations.MisalignedLegacyCountFaults : Prop :=
  ∀ (i : Instr) (s : State),
    exec i s = .fault .gp0 ↔
      Ready s i ∧ i.alignedRow = true ∧ ∃ acc, i.access = some acc ∧ (operandAddress s i acc).toNat % 16 ≠ 0

/-- A memory operand that is not accessible whole faults with its address and its whole size, whatever the mask (R34, R47, R154).
The tuple Full rows are meant without FAULT_SUPPRESSION. -/
def Obligations.InaccessibleOperandFaults : Prop :=
  ∀ (i : Instr) (s : State) (acc : Access),
    Ready s i → i.access = some acc → accessible s.params .data (operandAddress s i acc) acc.bytes = false →
    (i.alignedRow = true → (operandAddress s i acc).toNat % 16 = 0) →
    (i.fullRow = true → s.params.faultSuppression = false) →
    exec i s = .fault (.memFault (operandAddress s i acc) acc.bytes)

/-- A memory fault names the one access of the instruction, which is not accessible whole or, on rows 1 and 5 with AC_ENABLED, not
aligned (R46, R154, R36; standing for #AC is log entry 8). -/
def Obligations.MemoryFaultsComeFromTheOperand : Prop :=
  ∀ (i : Instr) (s : State) (a : Addr) (n : Nat), exec i s = .fault (.memFault a n) →
    Ready s i ∧ ∃ acc, i.access = some acc ∧ a = operandAddress s i acc ∧ n = acc.bytes ∧
      (accessible s.params .data a n = false ∨
        (i.osClass = .mmx ∧ s.params.acEnabled = true ∧ a.toNat % 8 ≠ 0))

/-- With AC_ENABLED a misaligned memory count of rows 1 and 5 faults (R36; log entry 8). -/
def Obligations.AlignmentCheckOnMmxCounts : Prop :=
  ∀ (s : State) (rex : Bool) (d : BitVec 3) (m : Mem),
    ∀ i, i = Instr.psrawMmRm rex d (.mem m) ∨ i = Instr.psradMmRm rex d (.mem m) →
      Ready s i → s.params.acEnabled = true → (s.ea (encode i).length 1 m).toNat % 8 ≠ 0 →
      exec i s = .fault (.memFault (s.ea (encode i).length 1 m) 8)

/-- Each row raises only the exceptions of its class (R151). -/
def Obligations.RowsRaiseOnlyTheirClass : Prop :=
  ∀ (i : Instr) (s : State) (x : Fault), exec i s = .fault x → FaultOfClass i x

/-- No exception depends on the data, the count, the mask or memory: two states with the same configuration, `rip` and general
registers fault alike (R151). Under FAULT_SUPPRESSION the opmask registers must agree too (log entry 7). -/
def Obligations.ExceptionsIgnoreData : Prop :=
  ∀ (i : Instr) (s t : State) (x : Fault), SameAddressing s t →
    (s.params.faultSuppression = false ∨ ∀ r, t.readK r = s.readK r) →
    (exec i s = .fault x ↔ exec i t = .fault x)

/-- Executing is refused in the 32-bit modes, and otherwise only where a register, register view or mask bit of the row is absent
(R67; the second is the model's choice, log entry 9). -/
def Obligations.ExecutionIsRefusedOnlyHere : Prop :=
  ∀ (i : Instr) (s : State) (r : Refusal),
    exec i s = .refused r ↔
      (s.params.mode = .mode32 ∧ r = .modeNotModelled) ∨
      (s.params.mode = .mode64 ∧ ¬ Undefined s.params i ∧ s.params.tsSet = false ∧
        (i.osClass = .mmx → s.params.x87Pending = false) ∧
        ¬ ViewsPresent s.params i ∧ r = .viewAbsent)

/-- Where MAXVL, NVR, KW, NMM and NK have the defaults R5 gives the features, and AVX2 comes with AVX and AVX512BW with AVX512F, no
instruction is refused in 64-bit mode. The second premise is the model's own (PRESUMED, log entry 33): without it R5's defaults
leave rows whose registers are too narrow, which the model refuses (DESIGN CHOICE, log entry 9). -/
def Obligations.ConsistentProcessorsNeverRefuse : Prop :=
  ∀ (i : Instr) (s : State) (r : Refusal), defaultWidths s.params = true → nestedFeatures s.params.feat = true →
    s.params.mode = .mode64 → exec i s ≠ .refused r

/-- The control registers gate each class: #UD where its condition fails, and #NM where it holds with CR0.TS = 1 (R19). -/
def Obligations.ControlRegistersGateEachClass : Prop :=
  ∀ (i : Instr) (s : State) (cr0 cr4 xcr0 : BitVec 64), s.params.mode = .mode64 →
    (∀ f ∈ i.features, s.params.feat.has f = true) → (∀ r ∈ i.vectorRegs, r.toNat < s.params.nvr) →
    (¬ classOn cr0 cr4 xcr0 i.osClass →
      exec i { s with params := withControl s.params cr0 cr4 xcr0 } = .fault .ud) ∧
    (classOn cr0 cr4 xcr0 i.osClass → cr0.getLsbD 3 = true →
      exec i { s with params := withControl s.params cr0 cr4 xcr0 } = .fault .nm) ∧
    (classOn cr0 cr4 xcr0 i.osClass → cr0.getLsbD 3 = false →
      exec i { s with params := withControl s.params cr0 cr4 xcr0 } ≠ .fault .ud ∧
      exec i { s with params := withControl s.params cr0 cr4 xcr0 } ≠ .fault .nm)

/-! ### Encoding -/

/-- Decoding what was encoded, legacy rows: every operand at every value, whatever bytes follow (R50, R53, R55, R62). -/
def Obligations.LegacyDecodesWhatWasEncoded : Prop :=
  ∀ (i : Instr) (rest : List Byte), i.wf = true → i.isLegacy = true → decode (encode i ++ rest) = .ok i

/-- Decoding what was encoded, VEX rows (R56, R58, R65). -/
def Obligations.VexDecodesWhatWasEncoded : Prop :=
  ∀ (i : Instr) (rest : List Byte), i.wf = true → i.osClass = .avx → decode (encode i ++ rest) = .ok i

/-- Decoding what was encoded, EVEX rows (R57, R58, R65). -/
def Obligations.EvexDecodesWhatWasEncoded : Prop :=
  ∀ (i : Instr) (rest : List Byte), i.wf = true → i.osClass = .avx512 → decode (encode i ++ rest) = .ok i

/-- Bytes that decode are those of a well-formed instruction: each word has one meaning and no bit is dropped. -/
def Obligations.DecodedBytesAreTheEncoding : Prop :=
  ∀ (bs : List Byte) (i : Instr), decode bs = .ok i → i.wf = true ∧ ∃ rest, bs = encode i ++ rest

/-- No instruction is the front of another: every proper front part of an encoding is too short. -/
def Obligations.NoEncodingIsThePrefixOfAnother : Prop :=
  ∀ (i : Instr) (k : Nat), i.wf = true → k < (encode i).length → decode ((encode i).take k) = .more

/-- The lengths of rule R50: legacy 3 to 11 bytes, VEX 4 to 11, EVEX 6 to 12. -/
def Obligations.LengthsAreBounded : Prop := ∀ i : Instr, lengthBounds i

/-- Words written out from the spec's own listing (95_test_vectors.md section 1.3) decode to the instructions they stand for. -/
def Obligations.ListedWordsDecode : Prop :=
  decode [0x0F#8, 0xE1#8, 0xCA#8] = .ok (.psrawMmRm false 1#3 (.reg 2#3)) ∧
  decode [0x66#8, 0x45#8, 0x0F#8, 0xE2#8, 0xCA#8] = .ok (.psradXmmRm true 9#4 (.reg 10#4)) ∧
  decode [0xC5#8, 0xB1#8, 0x71#8, 0xE2#8, 0x03#8] = .ok (.vpsrawXmmImm .vex2 9#4 2#4 3#8) ∧
  decode [0x62#8, 0xF1#8, 0x75#8, 0xC9#8, 0x71#8, 0x60#8, 0x01#8, 0x03#8] =
    .ok (.evpsrawZmmImm false ⟨1#3, true⟩ 1#5 (.mem (.base (.d8 1#8) 0#4)) 3#8) ∧
  decode [0x62#8, 0x81#8, 0x8D#8, 0x40#8, 0xE2#8, 0xC9#8] =
    .ok (.evpsraqZmmRm ⟨0#3, false⟩ 17#5 30#5 (.reg 25#5))

/-- A LOCK prefix is #UD on every row, and 66, F2, F3 or REX in front of a VEX or EVEX prefix is #UD (R59, R152 causes 3, 4). -/
def Obligations.LockAndForeignPrefixesAreInvalid : Prop :=
  ∀ (i : Instr) (rest : List Byte), i.wf = true →
    decode (0xF0#8 :: (encode i ++ rest)) = .ud ∧
    (i.isLegacy = false → ∀ p : Byte, p = 0x66#8 ∨ p = 0xF2#8 ∨ p = 0xF3#8 ∨ isRex p = true →
      decode (p :: (encode i ++ rest)) = .ud)

/-- The other lines of rule R59: F2 and F3 on a legacy row, 66 on an MMX row, a second 66, 66 after REX, segment overrides and
67. For REX before 66 two lines of R59 apply and R59 does not say which byte the refusal names; that it names the 66 is the
model's deduction (DEDUCED, log entry 12). -/
def Obligations.OtherPrefixesAsListed : Prop :=
  ∀ (i : Instr) (rest : List Byte), i.wf = true →
    (i.isLegacy = true → decode (0xF2#8 :: (encode i ++ rest)) = .outOfScope ∧
      decode (0xF3#8 :: (encode i ++ rest)) = .outOfScope) ∧
    (∀ x, xmmOf i = some x → decode (0x66#8 :: (encode i ++ rest)) = .ok x) ∧
    (i.osClass = .sse → decode (0x66#8 :: (encode i ++ rest)) = .prefixNotAdmitted 0x66#8 ∧
      ∀ p, isRex p = true → decode (p :: (encode i ++ rest)) = .prefixNotAdmitted 0x66#8) ∧
    (∀ p : Byte, p = 0x67#8 ∨ p = 0x26#8 ∨ p = 0x2E#8 ∨ p = 0x36#8 ∨ p = 0x3E#8 ∨ p = 0x64#8 ∨ p = 0x65#8 →
      decode (p :: (encode i ++ rest)) = .prefixNotAdmitted p)

/-- The EVEX lines of rule R61, each as a change to the prefix bytes of a well-formed instruction: P0 bit 3 set, P1 bit 2 clear,
L'L = 11, z = 1 with aaa = 000, and b = 1 where no broadcast exists are all #UD. -/
def Obligations.InvalidEvexFieldsAreInvalid : Prop :=
  ∀ (i : Instr) (rest : List Byte), i.wf = true → i.osClass = .avx512 →
    decode ((encode i).modify 1 (fun b => b ||| 0x08#8) ++ rest) = .ud ∧
    decode ((encode i).modify 2 (fun b => b &&& 0xFB#8) ++ rest) = .ud ∧
    decode ((encode i).modify 3 (fun b => b ||| 0x60#8) ++ rest) = .ud ∧
    decode ((encode i).modify 3 (fun b => (b ||| 0x80#8) &&& 0xF8#8) ++ rest) = .ud ∧
    (i.fullRow = false ∨ i.access = none → decode ((encode i).modify 3 (fun b => b ||| 0x10#8) ++ rest) = .ud)

/-- A memory operand on a register-only form is #UD, in each encoding class (R61, R152 cause 5). -/
def Obligations.RegisterOnlyFormsRejectMemory : Prop :=
  ∀ (o : Opcode) (m : Mem) (imm : Byte) (rest : List Byte), o.isImm = true → m.wf = true →
    (m.extX = false → m.extB = false →
      decode (0x0F#8 :: (bodyBytes o 4#3 m.code [imm] ++ rest)) = .ud ∧
      decode (0x66#8 :: 0x0F#8 :: (bodyBytes o 4#3 m.code [imm] ++ rest)) = .ud ∧
      ∀ v : Byte, v.extractLsb' 0 2 = 1#2 → v.getLsbD 7 = true →
        decode (0xC5#8 :: v :: (bodyBytes o 4#3 m.code [imm] ++ rest)) = .ud) ∧
    decode (0x66#8 :: rexByte false m.extX m.extB :: 0x0F#8 :: (bodyBytes o 4#3 m.code [imm] ++ rest)) = .ud ∧
    ∀ v w : Byte, v.extractLsb' 0 5 = 1#5 → v.getLsbD 7 = true → v.getLsbD 6 = !m.extX → v.getLsbD 5 = !m.extB →
      w.extractLsb' 0 2 = 1#2 → decode (0xC4#8 :: v :: w :: (bodyBytes o 4#3 m.code [imm] ++ rest)) = .ud

/-- Bytes that select no row are refused as out of scope, whatever prefix bytes stand in front (R60; that it comes before the
refusal of a prefix is R97 step 1, log entry 11; that no later byte is asked for is log entry 10). -/
def Obligations.OtherOpcodesAreOutOfScope : Prop :=
  ∀ (pre rest : List Byte), AllPrefixes pre →
    (∀ b : Byte, isLegacyByte b = false → isRex b = false →
      b ≠ 0x0F#8 → b ≠ 0xC5#8 → b ≠ 0xC4#8 → b ≠ 0x62#8 → decode (pre ++ b :: rest) = .outOfScope) ∧
    (∀ (h : List Byte) (op : Byte), ClassHead h → op ≠ 0xE1#8 → op ≠ 0xE2#8 → op ≠ 0x71#8 → op ≠ 0x72#8 →
      decode (pre ++ (h ++ op :: rest)) = .outOfScope) ∧
    (∀ (h : List Byte) (op modrm : Byte), ClassHead h → op = 0x71#8 ∨ op = 0x72#8 →
      modrm.extractLsb' 3 3 ≠ 4#3 → decode (pre ++ (h ++ op :: modrm :: rest)) = .outOfScope) ∧
    (∀ v w : Byte,
      (v.extractLsb' 0 2 ≠ 1#2 → decode (pre ++ 0xC5#8 :: v :: rest) = .outOfScope) ∧
      (v.extractLsb' 0 5 ≠ 1#5 → decode (pre ++ 0xC4#8 :: v :: rest) = .outOfScope) ∧
      (v.extractLsb' 0 5 = 1#5 → w.extractLsb' 0 2 ≠ 1#2 → decode (pre ++ 0xC4#8 :: v :: w :: rest) = .outOfScope) ∧
      (v.extractLsb' 0 3 ≠ 1#3 → decode (pre ++ 0x62#8 :: v :: rest) = .outOfScope) ∧
      (v.extractLsb' 0 3 = 1#3 → w.extractLsb' 0 2 ≠ 1#2 → decode (pre ++ 0x62#8 :: v :: w :: rest) = .outOfScope))

/-- Bits that name nothing are refused unless canonical: every line of rule R54, on every ModRM.r/m operand, mod 00, 01, 10 and
11, with and without a SIB byte. That B names nothing where there is no base register has no line in R54's table and is deduced
from its text (log entry 15). -/
def Obligations.MeaninglessBitsAreRefused : Prop :=
  ∀ (o : Opcode) (reg : BitVec 3) (c : RmField) (imm : Byte) (rest : List Byte), rmSpelt c = true →
    (o.isImm = true → reg = 4#3) →
    (¬ Refuses (0x0F#8 :: opBody o reg c imm rest) ∧ ¬ Refuses (0x66#8 :: 0x0F#8 :: opBody o reg c imm rest)) ∧
    (∀ w r x b : Bool,
      (Refuses (rexWrxb w r x b :: 0x0F#8 :: opBody o reg c imm rest) ↔
        w = true ∨ r = true ∨ (x = true ∧ c.hasSib = false) ∨
          (b = true ∧ (o.isImm = true ∨ c.isReg = true ∨ c.lacksBase = true))) ∧
      (Refuses (0x66#8 :: rexWrxb w r x b :: 0x0F#8 :: opBody o reg c imm rest) ↔
        w = true ∨ (r = true ∧ o.isImm = true) ∨ (x = true ∧ c.hasSib = false) ∨ (b = true ∧ c.lacksBase = true))) ∧
    (∀ v : Byte, v.extractLsb' 0 2 = 1#2 →
      (Refuses (0xC5#8 :: v :: opBody o reg c imm rest) ↔ v.getLsbD 7 = false ∧ o.isImm = true)) ∧
    (∀ v v2 : Byte, v.extractLsb' 0 5 = 1#5 → v2.extractLsb' 0 2 = 1#2 →
      (Refuses (0xC4#8 :: v :: v2 :: opBody o reg c imm rest) ↔
        (v.getLsbD 7 = false ∧ o.isImm = true) ∨ (v.getLsbD 6 = false ∧ c.hasSib = false) ∨
          (v.getLsbD 5 = false ∧ c.lacksBase = true))) ∧
    (∀ p q t : Byte, p.extractLsb' 0 3 = 1#3 → q.extractLsb' 0 2 = 1#2 →
      (Refuses (0x62#8 :: p :: q :: t :: opBody o reg c imm rest) ↔
        ((p.getLsbD 7 = false ∨ p.getLsbD 4 = false) ∧ o.isImm = true) ∨
          (p.getLsbD 6 = false ∧ c.isReg = false ∧ c.hasSib = false) ∨ (p.getLsbD 5 = false ∧ c.lacksBase = true)))

/-! ### The step -/

/-- When the fetched bytes decode to an instruction, the step is that instruction's meaning and adds nothing around it: a meaning
moves `rip` itself (R97). -/
def Obligations.StepRunsTheDecodedInstruction : Prop :=
  ∀ (s : State) (i : Instr), s.params.mode = .mode64 → accessibleByte s.params .fetch s.rip = true →
    decode s.window = .ok i → step s = exec i s

/-- When the bytes of a well-formed instruction stand at `rip` and can be fetched, the step runs it, whatever stands behind them
(R65, R97). -/
def Obligations.StepRunsTheStoredInstruction : Prop :=
  ∀ (s : State) (i : Instr), s.params.mode = .mode64 → i.wf = true → Holds s s.rip (encode i) → step s = exec i s

/-- A verdict of the decoder that is no instruction is the step's outcome (R97 step 1, R150). Where the fetchable bytes end
before a verdict it is a fetch fault at the first byte missing (DEDUCED, log entry 10), and #GP(0) where all 15 bytes are there
(R66; DEDUCED for bytes that are no row, log entry 13). That the out-of-scope refusal carries all the fetched bytes is the
model's choice (DESIGN CHOICE, log entry 34). -/
def Obligations.VerdictsBecomeOutcomes : Prop :=
  ∀ (s : State), s.params.mode = .mode64 → accessibleByte s.params .fetch s.rip = true →
    (decode s.window = .ud → step s = .fault .ud) ∧
    (decode s.window = .outOfScope → step s = .refused (.outOfScope s.rip s.window)) ∧
    (∀ b, decode s.window = .nonCanonical b → step s = .refused (.nonCanonical b)) ∧
    (∀ b, decode s.window = .prefixNotAdmitted b → step s = .refused (.prefixNotAdmitted b)) ∧
    (decode s.window = .more →
      (s.window.length = 15 ∧ step s = .fault .gp0) ∨
      (s.window.length < 15 ∧
        accessibleByte s.params .fetch (s.rip + BitVec.ofNat 64 s.window.length) = false ∧
        step s = .fault (.fetchFault (s.rip + BitVec.ofNat 64 s.window.length)))) ∧
    Holds s s.rip s.window

/-- A byte that cannot be fetched is a fetch fault at that byte, before anything else (R156, R37, R15). -/
def Obligations.MissingByteIsAFetchFault : Prop :=
  (∀ (s : State), accessibleByte s.params .fetch s.rip = false → step s = .fault (.fetchFault s.rip)) ∧
  (∀ (s : State) (i : Instr) (k : Nat), s.params.mode = .mode64 → i.wf = true → k < (encode i).length →
    Holds s s.rip ((encode i).take k) →
    accessibleByte s.params .fetch (s.rip + BitVec.ofNat 64 k) = false →
    step s = .fault (.fetchFault (s.rip + BitVec.ofNat 64 k)))

/-- In the 32-bit modes every instruction is refused (R67). R156 puts a fetch fault before a refusal; that the step checks the
byte at `rip` alone, and refuses even where a later byte cannot be fetched, is the model's deduction (DEDUCED, log entry 14). -/
def Obligations.OtherModesAreRefused : Prop :=
  ∀ (s : State) (i : Instr), s.params.mode = .mode32 →
    exec i s = .refused .modeNotModelled ∧
    (accessibleByte s.params .fetch s.rip = true → step s = .refused .modeNotModelled)

/-- Over a run of any length memory (R44, R184), the opmask registers (R13), the general registers (R14), RFLAGS and MXCSR (R16,
R17, D23; held as state by log entry 4) and the configuration (R20; held in the state by log entry 5) are constant. -/
def Obligations.RunsLeaveMemoryAndMasksAlone : Prop :=
  ∀ (n : Nat) (s t : State), Sys2Proof.core.run n s = .next t →
    t.mem = s.mem ∧ t.k = s.k ∧ t.gpr = s.gpr ∧ t.rflags = s.rflags ∧ t.mxcsr = s.mxcsr ∧ t.params = s.params

/-- Every step keeps the invariant: canonical memory, nothing above MAXVL or KW, nothing in the vector, MMX and opmask
registers from NVR, NMM and NK up. -/
def Obligations.StepKeepsTheInvariant : Prop :=
  ∀ s t : State, Inv s → step s = .next t → Inv t

/-- The state after reset meets the invariant. -/
def Obligations.ResetMeetsTheInvariant : Prop := Inv State.reset
end

