-- ==== Sys2Proof/Laws/Lanes.lean ====
section
/-! SUPPORT. The lanes of a vector: a lane of a vector built from lanes, and the lane functions seen through it. -/

namespace Sys2Proof.Machine

theorem lanesNat_lt (n k : Nat) (f : Nat → BitVec n) : lanesNat n k f < 2 ^ (n * k) := by
  induction k generalizing f with
  | zero => simp [lanesNat]
  | succ k ih =>
    have h1 := ih (fun j => f (j + 1))
    have h2 := (f 0).isLt
    have h3 : lanesNat n k (fun j => f (j + 1)) + 1 ≤ 2 ^ (n * k) := h1
    have h4 := Nat.mul_le_mul_left (2 ^ n) h3
    rw [← Nat.pow_add] at h4
    have h5 : n + n * k = n * (k + 1) := by rw [Nat.mul_succ, Nat.add_comm]
    rw [h5] at h4
    simp only [lanesNat]
    rw [Nat.mul_add, Nat.mul_one] at h4
    omega

/-- Digit `j` to the base 2^n of the number built from lanes is lane `j`. -/
theorem lanesNat_digit (n k j : Nat) (f : Nat → BitVec n) (h : j < k) :
    lanesNat n k f / 2 ^ (n * j) % 2 ^ n = (f j).toNat := by
  induction k generalizing f j with
  | zero => omega
  | succ k ih =>
    cases j with
    | zero =>
      simp only [lanesNat, Nat.mul_zero, Nat.pow_zero, Nat.div_one]
      rw [Nat.add_mul_mod_self_left, Nat.mod_eq_of_lt (f 0).isLt]
    | succ j =>
      have h1 : lanesNat n (k + 1) f / 2 ^ n = lanesNat n k (fun i => f (i + 1)) := by
        simp only [lanesNat]
        rw [Nat.add_mul_div_left _ _ (Nat.two_pow_pos n), Nat.div_eq_of_lt (f 0).isLt, Nat.zero_add]
      rw [Nat.mul_succ, Nat.add_comm (n * j), Nat.pow_add, ← Nat.div_div_eq_div_mul, h1]
      exact ih j _ (by omega)

/-- Lane `j` of a vector built from lanes is the lane it was built from. -/
theorem lane_ofLanes (n vl j : Nat) (f : Nat → BitVec n) (h : j < vl / n) : lane n (ofLanes n vl f) j = f j := by
  apply BitVec.eq_of_toNat_eq
  have hk : n * (vl / n) ≤ vl := Nat.mul_div_le vl n
  have hlt : lanesNat n (vl / n) f < 2 ^ vl :=
    Nat.lt_of_lt_of_le (lanesNat_lt n (vl / n) f) (Nat.pow_le_pow_right (by decide) hk)
  simp only [lane, ofLanes, BitVec.extractLsb'_toNat, BitVec.toNat_ofNat, Nat.mod_eq_of_lt hlt,
    Nat.shiftRight_eq_div_pow]
  exact lanesNat_digit n (vl / n) j f h

theorem lane_packedSra (n : Nat) {vl : Nat} (v : BitVec vl) (c j : Nat) (h : j < vl / n) :
    lane n (packedSra n v c) j = sra (lane n v j) c :=
  lane_ofLanes n vl j _ h

theorem lane_masked (s : State) (n : Nat) {vl : Nat} (m : Mask) (res old : BitVec vl) (j : Nat) (h : j < vl / n) :
    lane n (s.masked n m res old) j =
      if s.selected m j then lane n res j else if m.z then 0#n else lane n old j :=
  lane_ofLanes n vl j _ h

theorem lane_broadcast {n : Nat} (vl : Nat) (t : BitVec n) (j : Nat) (h : j < vl / n) :
    lane n (broadcast vl t) j = t :=
  lane_ofLanes n vl j _ h

/-- The arithmetic shift of the core library already fills with the sign from a shift by the width on. -/
theorem sra_eq_sshiftRight {n : Nat} (x : BitVec n) (c : Nat) (hn : 0 < n) : sra x c = x.sshiftRight c := by
  unfold sra
  split
  · apply BitVec.eq_of_getLsbD_eq
    intro i hi
    rw [BitVec.getLsbD_sshiftRight]
    have h1 : ¬ n ≤ i := by omega
    have h2 : ¬ c + i < n := by omega
    cases hm : x.msb <;> simp [h1, h2, hi]
  · rfl

/-- Bit `i` of a shifted lane: bit `i + c` of the lane, or its sign bit where there is none (rule R90). -/
theorem getLsbD_sra {n : Nat} (x : BitVec n) (c i : Nat) (hi : i < n) :
    (sra x c).getLsbD i = if c + i < n then x.getLsbD (c + i) else x.msb := by
  rw [sra_eq_sshiftRight x c (by omega), BitVec.getLsbD_sshiftRight]
  have h1 : ¬ n ≤ i := by omega
  simp [h1]

/-- The view of what `keepUpper` writes. -/
theorem view_keepUpper {vl : Nat} (old : VrWord) (r : BitVec vl) (h : vl ≤ 512) :
    (keepUpper old r).extractLsb' 0 vl = r := by
  apply BitVec.eq_of_getLsbD_eq
  intro i hi
  have h2 : i < 512 := by omega
  simp [keepUpper, hi, h2]

/-- The bits above what `keepUpper` writes are the old ones. -/
theorem upper_keepUpper {vl : Nat} (old : VrWord) (r : BitVec vl) (i : Nat) (h : vl ≤ i) :
    (keepUpper old r).getLsbD i = old.getLsbD i := by
  have h1 : ¬ i < vl := by omega
  by_cases h2 : i < 512
  · simp [keepUpper, h1, h2, BitVec.getLsbD_of_ge r i h]
    have h3 : vl + (i - vl) = i := by omega
    rw [h3, BitVec.getLsbD_eq_getElem h2]
  · rw [BitVec.getLsbD_of_ge _ i (by omega), BitVec.getLsbD_of_ge _ i (by omega)]

theorem view_zeroUpper {vl : Nat} (r : BitVec vl) (h : vl ≤ 512) : (zeroUpper r).extractLsb' 0 vl = r := by
  apply BitVec.eq_of_getLsbD_eq
  intro i hi
  have h2 : i < 512 := by omega
  simp [zeroUpper, hi, h2]

/-- The bits above what `zeroUpper` writes are zero. -/
theorem upper_zeroUpper {vl : Nat} (r : BitVec vl) (i : Nat) (h : vl ≤ i) : (zeroUpper r).getLsbD i = false := by
  simp [zeroUpper, BitVec.getLsbD_of_ge r i h]

end Sys2Proof.Machine
end

