-- ==== Sys2Proof/Laws/State.lean ====
section
/-! SUPPORT. One lemma per field per update of the state, and reading a register after writing one. -/

namespace Sys2Proof.Machine

@[simp] theorem launch_nvr : Params.launch.nvr = 32 := rfl
@[simp] theorem launch_nmm : Params.launch.nmm = 8 := rfl
@[simp] theorem launch_nk : Params.launch.nk = 8 := rfl

@[simp] theorem setVr_mm (s : State) (r : BitVec 5) (v : VrWord) : (s.setVr r v).mm = s.mm := rfl
@[simp] theorem setVr_k (s : State) (r : BitVec 5) (v : VrWord) : (s.setVr r v).k = s.k := rfl
@[simp] theorem setVr_gpr (s : State) (r : BitVec 5) (v : VrWord) : (s.setVr r v).gpr = s.gpr := rfl
@[simp] theorem setVr_rip (s : State) (r : BitVec 5) (v : VrWord) : (s.setVr r v).rip = s.rip := rfl
@[simp] theorem setVr_rflags (s : State) (r : BitVec 5) (v : VrWord) : (s.setVr r v).rflags = s.rflags := rfl
@[simp] theorem setVr_mxcsr (s : State) (r : BitVec 5) (v : VrWord) : (s.setVr r v).mxcsr = s.mxcsr := rfl
@[simp] theorem setVr_mem (s : State) (r : BitVec 5) (v : VrWord) : (s.setVr r v).mem = s.mem := rfl
@[simp] theorem setVr_params (s : State) (r : BitVec 5) (v : VrWord) : (s.setVr r v).params = s.params := rfl

@[simp] theorem setMm_vr (s : State) (r : BitVec 3) (v : BitVec 64) : (s.setMm r v).vr = s.vr := rfl
@[simp] theorem setMm_k (s : State) (r : BitVec 3) (v : BitVec 64) : (s.setMm r v).k = s.k := rfl
@[simp] theorem setMm_gpr (s : State) (r : BitVec 3) (v : BitVec 64) : (s.setMm r v).gpr = s.gpr := rfl
@[simp] theorem setMm_rip (s : State) (r : BitVec 3) (v : BitVec 64) : (s.setMm r v).rip = s.rip := rfl
@[simp] theorem setMm_rflags (s : State) (r : BitVec 3) (v : BitVec 64) : (s.setMm r v).rflags = s.rflags := rfl
@[simp] theorem setMm_mxcsr (s : State) (r : BitVec 3) (v : BitVec 64) : (s.setMm r v).mxcsr = s.mxcsr := rfl
@[simp] theorem setMm_mem (s : State) (r : BitVec 3) (v : BitVec 64) : (s.setMm r v).mem = s.mem := rfl
@[simp] theorem setMm_params (s : State) (r : BitVec 3) (v : BitVec 64) : (s.setMm r v).params = s.params := rfl

@[simp] theorem advance_vr (s : State) (n : Nat) : (s.advance n).vr = s.vr := rfl
@[simp] theorem advance_mm (s : State) (n : Nat) : (s.advance n).mm = s.mm := rfl
@[simp] theorem advance_k (s : State) (n : Nat) : (s.advance n).k = s.k := rfl
@[simp] theorem advance_gpr (s : State) (n : Nat) : (s.advance n).gpr = s.gpr := rfl
@[simp] theorem advance_rip (s : State) (n : Nat) : (s.advance n).rip = s.rip + BitVec.ofNat 64 n := rfl
@[simp] theorem advance_rflags (s : State) (n : Nat) : (s.advance n).rflags = s.rflags := rfl
@[simp] theorem advance_mxcsr (s : State) (n : Nat) : (s.advance n).mxcsr = s.mxcsr := rfl
@[simp] theorem advance_mem (s : State) (n : Nat) : (s.advance n).mem = s.mem := rfl
@[simp] theorem advance_params (s : State) (n : Nat) : (s.advance n).params = s.params := rfl

@[simp] theorem advance_readVr (s : State) (n : Nat) (r : BitVec 5) : (s.advance n).readVr r = s.readVr r := rfl
@[simp] theorem advance_readMm (s : State) (n : Nat) (r : BitVec 3) : (s.advance n).readMm r = s.readMm r := rfl
@[simp] theorem advance_readK (s : State) (n : Nat) (r : BitVec 3) : (s.advance n).readK r = s.readK r := rfl
@[simp] theorem advance_readGpr (s : State) (n : Nat) (r : BitVec 4) : (s.advance n).readGpr r = s.readGpr r := rfl
@[simp] theorem advance_byteAt (s : State) (n : Nat) (a : Addr) : (s.advance n).byteAt a = s.byteAt a := rfl
@[simp] theorem setVr_readMm (s : State) (r : BitVec 5) (v : VrWord) (q : BitVec 3) :
    (s.setVr r v).readMm q = s.readMm q := rfl
@[simp] theorem setVr_readK (s : State) (r : BitVec 5) (v : VrWord) (q : BitVec 3) :
    (s.setVr r v).readK q = s.readK q := rfl
@[simp] theorem setVr_readGpr (s : State) (r : BitVec 5) (v : VrWord) (q : BitVec 4) :
    (s.setVr r v).readGpr q = s.readGpr q := rfl
@[simp] theorem setVr_byteAt (s : State) (r : BitVec 5) (v : VrWord) (a : Addr) :
    (s.setVr r v).byteAt a = s.byteAt a := rfl
@[simp] theorem setMm_readVr (s : State) (r : BitVec 3) (v : BitVec 64) (q : BitVec 5) :
    (s.setMm r v).readVr q = s.readVr q := rfl
@[simp] theorem setMm_readK (s : State) (r : BitVec 3) (v : BitVec 64) (q : BitVec 3) :
    (s.setMm r v).readK q = s.readK q := rfl
@[simp] theorem setMm_readGpr (s : State) (r : BitVec 3) (v : BitVec 64) (q : BitVec 4) :
    (s.setMm r v).readGpr q = s.readGpr q := rfl
@[simp] theorem setMm_byteAt (s : State) (r : BitVec 3) (v : BitVec 64) (a : Addr) :
    (s.setMm r v).byteAt a = s.byteAt a := rfl

@[simp] theorem readVr_setVr_same (s : State) (r : BitVec 5) (v : VrWord) : (s.setVr r v).readVr r = v := by
  simp [State.readVr, State.setVr, Vector.get_eq_getElem]

theorem readVr_setVr_ne (s : State) {r q : BitVec 5} (v : VrWord) (h : q ≠ r) :
    (s.setVr r v).readVr q = s.readVr q := by
  have : r.toNat ≠ q.toNat := fun e => h (BitVec.eq_of_toNat_eq e.symm)
  simp [State.readVr, State.setVr, Vector.get_eq_getElem, this]

@[simp] theorem readMm_setMm_same (s : State) (r : BitVec 3) (v : BitVec 64) : (s.setMm r v).readMm r = v := by
  simp [State.readMm, State.setMm, Vector.get_eq_getElem]

theorem readMm_setMm_ne (s : State) {r q : BitVec 3} (v : BitVec 64) (h : q ≠ r) :
    (s.setMm r v).readMm q = s.readMm q := by
  have : r.toNat ≠ q.toNat := fun e => h (BitVec.eq_of_toNat_eq e.symm)
  simp [State.readMm, State.setMm, Vector.get_eq_getElem, this]

@[simp] theorem view_setVr_same (s : State) (vl : Nat) (r : BitVec 5) (v : VrWord) :
    (s.setVr r v).view vl r = v.extractLsb' 0 vl := by
  simp [State.view]

@[simp] theorem advance_view (s : State) (n vl : Nat) (r : BitVec 5) : (s.advance n).view vl r = s.view vl r := rfl

end Sys2Proof.Machine
end

