-- ==== Sys2Proof/Laws/Memory.lean ====
section
/-! SUPPORT. The laws of memory: a byte read after a write, the canonical form kept, little-endian reads. -/

namespace Sys2Proof.Machine

theorem read_cons_same (a : Nat) (v : Byte) (m : Memory) (h : Memory.read m a = Memory.unlisted) :
    Memory.read (Memory.cons a v m) a = v := by
  unfold Memory.cons
  split
  · simp_all
  · simp [Memory.read]

theorem read_cons_ne {a b : Nat} (v : Byte) (m : Memory) (h : b ≠ a) :
    Memory.read (Memory.cons a v m) b = Memory.read m b := by
  unfold Memory.cons
  split
  · rfl
  · simp [Memory.read, Ne.symm h]

/-- Nothing is listed below a memory's lower bound. -/
theorem read_below {lo a : Nat} (m : Memory) (h : Memory.wfFrom lo m = true) (ha : a < lo) :
    Memory.read m a = Memory.unlisted := by
  induction m generalizing lo with
  | nil => rfl
  | cons c m ih =>
    obtain ⟨b, v⟩ := c
    simp only [Memory.wfFrom, Bool.and_eq_true, decide_eq_true_eq] at h
    have hb : b ≠ a := by omega
    simp only [Memory.read, hb, if_false]
    exact ih h.2 (by omega)

theorem read_write_same (m : Memory) (lo a : Nat) (v : Byte) (h : Memory.wfFrom lo m = true) :
    Memory.read (Memory.write m a v) a = v := by
  induction m generalizing lo with
  | nil => exact read_cons_same a v [] rfl
  | cons c m ih =>
    obtain ⟨b, w⟩ := c
    have h' := h
    simp only [Memory.wfFrom, Bool.and_eq_true, decide_eq_true_eq] at h
    simp only [Memory.write]
    split
    · rename_i hlt
      refine read_cons_same a v _ ?_
      have hb : b ≠ a := by omega
      simp only [Memory.read, hb, if_false]
      exact read_below m h.2 (by omega)
    · split
      · rename_i e
        subst e
        exact read_cons_same a v m (read_below m h.2 (by omega))
      · rename_i hne
        simp only [Memory.read, Ne.symm hne, if_false]
        exact ih (b + 1) h.2

theorem read_write_ne (m : Memory) {a b : Nat} (v : Byte) (h : b ≠ a) :
    Memory.read (Memory.write m a v) b = Memory.read m b := by
  induction m with
  | nil => exact read_cons_ne v [] h
  | cons c m ih =>
    obtain ⟨x, w⟩ := c
    simp only [Memory.write]
    split
    · exact read_cons_ne v _ h
    · split
      · rename_i e
        subst e
        rw [read_cons_ne v m h]
        simp [Memory.read, Ne.symm h]
      · simp only [Memory.read, ih]

theorem wfFrom_mono {lo hi : Nat} (m : Memory) (h : Memory.wfFrom hi m = true) (hl : lo ≤ hi) :
    Memory.wfFrom lo m = true := by
  cases m with
  | nil => rfl
  | cons c m =>
    obtain ⟨b, w⟩ := c
    simp only [Memory.wfFrom, Bool.and_eq_true, decide_eq_true_eq] at h ⊢
    exact ⟨⟨⟨by omega, h.1.1.2⟩, h.1.2⟩, h.2⟩

theorem wfFrom_cons {lo a : Nat} (v : Byte) (m : Memory) (hl : lo ≤ a) (ha : a < 2 ^ 64)
    (h : Memory.wfFrom (a + 1) m = true) : Memory.wfFrom lo (Memory.cons a v m) = true := by
  unfold Memory.cons
  split
  · exact wfFrom_mono m h (by omega)
  · rename_i hv
    simp only [Memory.wfFrom, Bool.and_eq_true, decide_eq_true_eq, bne_iff_ne, ne_eq]
    exact ⟨⟨⟨hl, ha⟩, hv⟩, h⟩

theorem wfFrom_write {lo a : Nat} (m : Memory) (v : Byte) (hl : lo ≤ a) (ha : a < 2 ^ 64)
    (h : Memory.wfFrom lo m = true) : Memory.wfFrom lo (Memory.write m a v) = true := by
  induction m generalizing lo with
  | nil => exact wfFrom_cons v [] hl ha rfl
  | cons c m ih =>
    obtain ⟨b, w⟩ := c
    have h' := h
    simp only [Memory.wfFrom, Bool.and_eq_true, decide_eq_true_eq] at h
    simp only [Memory.write]
    split
    · refine wfFrom_cons v _ hl ha ?_
      simp only [Memory.wfFrom, Bool.and_eq_true, decide_eq_true_eq]
      exact ⟨⟨⟨by omega, h.1.1.2⟩, h.1.2⟩, h.2⟩
    · split
      · rename_i e
        subst e
        exact wfFrom_cons v m hl ha h.2
      · simp only [Memory.wfFrom, Bool.and_eq_true, decide_eq_true_eq]
        exact ⟨h.1, ih (by omega) h.2⟩

/-- Writing a byte at a 64-bit address keeps the canonical form. -/
theorem wf_write (m : Memory) (a : Addr) (v : Byte) (h : Memory.wf m = true) :
    Memory.wf (Memory.write m a.toNat v) = true :=
  wfFrom_write m v (Nat.zero_le _) a.isLt h

/-- Writing bytes keeps the canonical form. -/
theorem wf_writeBytes (s : State) (a : Addr) (bs : List Byte) (h : Memory.wf s.mem = true) :
    Memory.wf (s.writeBytes a bs).mem = true := by
  induction bs generalizing s a with
  | nil => exact h
  | cons b bs ih => exact ih _ _ (wf_write s.mem a b h)

/-- `MemWrite` keeps the canonical form. -/
theorem wf_memWrite (s : State) (a : Addr) (n : Nat) (v : BitVec (8 * n)) (h : Memory.wf s.mem = true) :
    Memory.wf (s.memWrite a n v).mem = true :=
  wf_writeBytes s a _ h

/-- Every address reads as an unlisted one in a memory only if the memory lists nothing. -/
theorem wf_eq_nil {lo : Nat} (m : Memory) (h : Memory.wfFrom lo m = true)
    (e : ∀ a, Memory.read m a = Memory.unlisted) : m = [] := by
  cases m with
  | nil => rfl
  | cons c m =>
    obtain ⟨b, w⟩ := c
    simp only [Memory.wfFrom, Bool.and_eq_true, bne_iff_ne] at h
    have := e b
    simp only [Memory.read, if_true] at this
    exact absurd this h.1.2

/-- Canonical memories that read alike are equal. -/
theorem memory_ext {lo : Nat} (m m' : Memory) (h : Memory.wfFrom lo m = true) (h' : Memory.wfFrom lo m' = true)
    (e : ∀ a, Memory.read m a = Memory.read m' a) : m = m' := by
  induction m generalizing lo m' with
  | nil => exact (wf_eq_nil m' h' fun a => (e a).symm).symm
  | cons c m ih =>
    obtain ⟨b, w⟩ := c
    cases m' with
    | nil => exact wf_eq_nil _ h e
    | cons c' m' =>
      obtain ⟨b', w'⟩ := c'
      have k := h
      have k' := h'
      simp only [Memory.wfFrom, Bool.and_eq_true, decide_eq_true_eq, bne_iff_ne] at k k'
      have hb : b = b' := by
        rcases Nat.lt_trichotomy b b' with hlt | heq | hgt
        · have := e b
          rw [read_below (lo := b') ((b', w') :: m')
            (by simp only [Memory.wfFrom, Bool.and_eq_true, decide_eq_true_eq, bne_iff_ne]
                exact ⟨⟨⟨Nat.le_refl _, k'.1.1.2⟩, k'.1.2⟩, k'.2⟩) hlt] at this
          simp only [Memory.read, if_true] at this
          exact absurd this k.1.2
        · exact heq
        · have := e b'
          rw [read_below (lo := b) ((b, w) :: m)
            (by simp only [Memory.wfFrom, Bool.and_eq_true, decide_eq_true_eq, bne_iff_ne]
                exact ⟨⟨⟨Nat.le_refl _, k.1.1.2⟩, k.1.2⟩, k.2⟩) hgt] at this
          simp only [Memory.read, if_true] at this
          exact absurd this.symm k'.1.2
      subst hb
      have hw : w = w' := by simpa [Memory.read] using e b
      subst hw
      refine congrArg _ (ih m' k.2 k'.2 fun a => ?_)
      by_cases ha : b = a
      · subst ha
        rw [read_below m k.2 (by omega), read_below m' k'.2 (by omega)]
      · simpa [Memory.read, ha] using e a

/-- A little-endian read stays below 256 to the number of bytes. -/
theorem readLE_lt (s : State) (a : Addr) (n : Nat) : s.readLE a n < 256 ^ n := by
  induction n generalizing a with
  | zero => simp [State.readLE]
  | succ n ih =>
    have h1 := ih (a + 1#64)
    have h2 : (s.byteAt a).toNat < 256 := (s.byteAt a).isLt
    simp only [State.readLE, Nat.pow_succ]
    omega

end Sys2Proof.Machine
end

