-- ==== Sys2Proof/Laws/PerInstr.lean ====
section
/-! SUPPORT. Families of statements about every instruction, one lemma per constructor. -/

namespace Sys2Proof.Laws

set_option Elab.async false

theorem disp_bytes_length (d : Disp) : d.bytes.length = d.len := by
  cases d <;> rfl

theorem mem_tail_length (m : Mem) : m.code.tail.length = m.len := by
  cases m <;> simp [Mem.code, Mem.len, disp32Bytes, disp_bytes_length, Nat.add_comm]

theorem regMem_tail_length {n : Nat} (c : RegMem n) : c.code.tail.length = c.len := by
  cases c <;> simp [RegMem.code, RegMem.len, mem_tail_length]

theorem source_tail_length (c : Source) : c.code.tail.length = c.len := by
  cases c <;> simp [Source.code, Source.len, mem_tail_length]

theorem encodeLegacyRm_length {n : Nat} (p rex : Bool) (o : Opcode) (d : BitVec 4) (c : RegMem n) :
    (encodeLegacyRm p rex o d c.code).length = legacyLen p rex c.len 0 := by
  cases p <;> cases rex <;>
    simp [encodeLegacyRm, encodeLegacy, bodyBytes, legacyLen, regMem_tail_length] <;> omega

theorem encodeLegacyImm_length (p rex : Bool) (o : Opcode) (d : BitVec 4) (i : Byte) :
    (encodeLegacyImm p rex o d i).length = legacyLen p rex 0 1 := by
  cases p <;> cases rex <;> simp [encodeLegacyImm, encodeLegacy, bodyBytes, legacyLen, RegMem.code]

theorem encodeVexRm_length (f : VexForm) (l : Bool) (o : Opcode) (d s : BitVec 4) (c : RegMem 4) :
    (encodeVexRm f l o d s c).length = vexLen f c.len 0 := by
  cases f <;> simp [encodeVexRm, encodeVex, bodyBytes, vexLen, regMem_tail_length] <;> omega

theorem encodeVexImm_length (f : VexForm) (l : Bool) (o : Opcode) (d s : BitVec 4) (i : Byte) :
    (encodeVexImm f l o d s i).length = vexLen f 0 1 := by
  cases f <;> simp [encodeVexImm, encodeVex, bodyBytes, vexLen, RegMem.code]

theorem encodeEvexRm_length (ll : BitVec 2) (w : Bool) (o : Opcode) (m : Mask) (d s : BitVec 5) (c : RegMem 5) :
    (encodeEvexRm ll w o m d s c).length = evexLen c.len 0 := by
  simp [encodeEvexRm, encodeEvex, bodyBytes, evexLen, regMem_tail_length]
  omega

theorem encodeEvexImm_length (ll : BitVec 2) (w bc : Bool) (o : Opcode) (m : Mask) (d : BitVec 5) (c : RmCode)
    (i : Byte) : (encodeEvexImm ll w bc o m d c i).length = evexLen c.tail.length 1 := by
  simp [encodeEvexImm, encodeEvex, bodyBytes, evexLen]
  omega

/-- The bytes of an instruction are as many as rule R66 counts. -/
def EncodeLength.Statement (i : Instr) : Prop := (encode i).length = i.len

theorem EncodeLength.psrawMmRm (rex : Bool) (dst : BitVec 3) (cnt : RegMem 3) :
    EncodeLength.Statement (.psrawMmRm rex dst cnt) := encodeLegacyRm_length _ _ _ _ _

theorem EncodeLength.psrawXmmRm (rex : Bool) (dst : BitVec 4) (cnt : RegMem 4) :
    EncodeLength.Statement (.psrawXmmRm rex dst cnt) := encodeLegacyRm_length _ _ _ _ _

theorem EncodeLength.psrawMmImm (rex : Bool) (dst : BitVec 3) (imm : BitVec 8) :
    EncodeLength.Statement (.psrawMmImm rex dst imm) := encodeLegacyImm_length _ _ _ _ _

theorem EncodeLength.psrawXmmImm (rex : Bool) (dst : BitVec 4) (imm : BitVec 8) :
    EncodeLength.Statement (.psrawXmmImm rex dst imm) := encodeLegacyImm_length _ _ _ _ _

theorem EncodeLength.psradMmRm (rex : Bool) (dst : BitVec 3) (cnt : RegMem 3) :
    EncodeLength.Statement (.psradMmRm rex dst cnt) := encodeLegacyRm_length _ _ _ _ _

theorem EncodeLength.psradXmmRm (rex : Bool) (dst : BitVec 4) (cnt : RegMem 4) :
    EncodeLength.Statement (.psradXmmRm rex dst cnt) := encodeLegacyRm_length _ _ _ _ _

theorem EncodeLength.psradMmImm (rex : Bool) (dst : BitVec 3) (imm : BitVec 8) :
    EncodeLength.Statement (.psradMmImm rex dst imm) := encodeLegacyImm_length _ _ _ _ _

theorem EncodeLength.psradXmmImm (rex : Bool) (dst : BitVec 4) (imm : BitVec 8) :
    EncodeLength.Statement (.psradXmmImm rex dst imm) := encodeLegacyImm_length _ _ _ _ _

theorem EncodeLength.vpsrawXmmRm (form : VexForm) (dst src : BitVec 4) (cnt : RegMem 4) :
    EncodeLength.Statement (.vpsrawXmmRm form dst src cnt) := encodeVexRm_length _ _ _ _ _ _

theorem EncodeLength.vpsrawXmmImm (form : VexForm) (dst src : BitVec 4) (imm : BitVec 8) :
    EncodeLength.Statement (.vpsrawXmmImm form dst src imm) := encodeVexImm_length _ _ _ _ _ _

theorem EncodeLength.vpsradXmmRm (form : VexForm) (dst src : BitVec 4) (cnt : RegMem 4) :
    EncodeLength.Statement (.vpsradXmmRm form dst src cnt) := encodeVexRm_length _ _ _ _ _ _

theorem EncodeLength.vpsradXmmImm (form : VexForm) (dst src : BitVec 4) (imm : BitVec 8) :
    EncodeLength.Statement (.vpsradXmmImm form dst src imm) := encodeVexImm_length _ _ _ _ _ _

theorem EncodeLength.vpsrawYmmRm (form : VexForm) (dst src : BitVec 4) (cnt : RegMem 4) :
    EncodeLength.Statement (.vpsrawYmmRm form dst src cnt) := encodeVexRm_length _ _ _ _ _ _

theorem EncodeLength.vpsrawYmmImm (form : VexForm) (dst src : BitVec 4) (imm : BitVec 8) :
    EncodeLength.Statement (.vpsrawYmmImm form dst src imm) := encodeVexImm_length _ _ _ _ _ _

theorem EncodeLength.vpsradYmmRm (form : VexForm) (dst src : BitVec 4) (cnt : RegMem 4) :
    EncodeLength.Statement (.vpsradYmmRm form dst src cnt) := encodeVexRm_length _ _ _ _ _ _

theorem EncodeLength.vpsradYmmImm (form : VexForm) (dst src : BitVec 4) (imm : BitVec 8) :
    EncodeLength.Statement (.vpsradYmmImm form dst src imm) := encodeVexImm_length _ _ _ _ _ _

theorem EncodeLength.evpsrawXmmRm (w : Bool) (mask : Mask) (dst src : BitVec 5) (cnt : RegMem 5) :
    EncodeLength.Statement (.evpsrawXmmRm w mask dst src cnt) := encodeEvexRm_length _ _ _ _ _ _ _

theorem EncodeLength.evpsrawYmmRm (w : Bool) (mask : Mask) (dst src : BitVec 5) (cnt : RegMem 5) :
    EncodeLength.Statement (.evpsrawYmmRm w mask dst src cnt) := encodeEvexRm_length _ _ _ _ _ _ _

theorem EncodeLength.evpsrawZmmRm (w : Bool) (mask : Mask) (dst src : BitVec 5) (cnt : RegMem 5) :
    EncodeLength.Statement (.evpsrawZmmRm w mask dst src cnt) := encodeEvexRm_length _ _ _ _ _ _ _

theorem EncodeLength.evpsrawXmmImm (w : Bool) (mask : Mask) (dst : BitVec 5) (src : RegMem 5) (imm : BitVec 8) :
    EncodeLength.Statement (.evpsrawXmmImm w mask dst src imm) := by
  rw [EncodeLength.Statement, encode, encodeEvexImm_length, regMem_tail_length, Instr.len]

theorem EncodeLength.evpsrawYmmImm (w : Bool) (mask : Mask) (dst : BitVec 5) (src : RegMem 5) (imm : BitVec 8) :
    EncodeLength.Statement (.evpsrawYmmImm w mask dst src imm) := by
  rw [EncodeLength.Statement, encode, encodeEvexImm_length, regMem_tail_length, Instr.len]

theorem EncodeLength.evpsrawZmmImm (w : Bool) (mask : Mask) (dst : BitVec 5) (src : RegMem 5) (imm : BitVec 8) :
    EncodeLength.Statement (.evpsrawZmmImm w mask dst src imm) := by
  rw [EncodeLength.Statement, encode, encodeEvexImm_length, regMem_tail_length, Instr.len]

theorem EncodeLength.evpsradXmmRm (mask : Mask) (dst src : BitVec 5) (cnt : RegMem 5) :
    EncodeLength.Statement (.evpsradXmmRm mask dst src cnt) := encodeEvexRm_length _ _ _ _ _ _ _

theorem EncodeLength.evpsradYmmRm (mask : Mask) (dst src : BitVec 5) (cnt : RegMem 5) :
    EncodeLength.Statement (.evpsradYmmRm mask dst src cnt) := encodeEvexRm_length _ _ _ _ _ _ _

theorem EncodeLength.evpsradZmmRm (mask : Mask) (dst src : BitVec 5) (cnt : RegMem 5) :
    EncodeLength.Statement (.evpsradZmmRm mask dst src cnt) := encodeEvexRm_length _ _ _ _ _ _ _

theorem EncodeLength.evpsradXmmImm (mask : Mask) (dst : BitVec 5) (src : Source) (imm : BitVec 8) :
    EncodeLength.Statement (.evpsradXmmImm mask dst src imm) := by
  rw [EncodeLength.Statement, encode, encodeEvexImm_length, source_tail_length, Instr.len]

theorem EncodeLength.evpsradYmmImm (mask : Mask) (dst : BitVec 5) (src : Source) (imm : BitVec 8) :
    EncodeLength.Statement (.evpsradYmmImm mask dst src imm) := by
  rw [EncodeLength.Statement, encode, encodeEvexImm_length, source_tail_length, Instr.len]

theorem EncodeLength.evpsradZmmImm (mask : Mask) (dst : BitVec 5) (src : Source) (imm : BitVec 8) :
    EncodeLength.Statement (.evpsradZmmImm mask dst src imm) := by
  rw [EncodeLength.Statement, encode, encodeEvexImm_length, source_tail_length, Instr.len]

theorem EncodeLength.evpsraqXmmRm (mask : Mask) (dst src : BitVec 5) (cnt : RegMem 5) :
    EncodeLength.Statement (.evpsraqXmmRm mask dst src cnt) := encodeEvexRm_length _ _ _ _ _ _ _

theorem EncodeLength.evpsraqYmmRm (mask : Mask) (dst src : BitVec 5) (cnt : RegMem 5) :
    EncodeLength.Statement (.evpsraqYmmRm mask dst src cnt) := encodeEvexRm_length _ _ _ _ _ _ _

theorem EncodeLength.evpsraqZmmRm (mask : Mask) (dst src : BitVec 5) (cnt : RegMem 5) :
    EncodeLength.Statement (.evpsraqZmmRm mask dst src cnt) := encodeEvexRm_length _ _ _ _ _ _ _

theorem EncodeLength.evpsraqXmmImm (mask : Mask) (dst : BitVec 5) (src : Source) (imm : BitVec 8) :
    EncodeLength.Statement (.evpsraqXmmImm mask dst src imm) := by
  rw [EncodeLength.Statement, encode, encodeEvexImm_length, source_tail_length, Instr.len]

theorem EncodeLength.evpsraqYmmImm (mask : Mask) (dst : BitVec 5) (src : Source) (imm : BitVec 8) :
    EncodeLength.Statement (.evpsraqYmmImm mask dst src imm) := by
  rw [EncodeLength.Statement, encode, encodeEvexImm_length, source_tail_length, Instr.len]

theorem EncodeLength.evpsraqZmmImm (mask : Mask) (dst : BitVec 5) (src : Source) (imm : BitVec 8) :
    EncodeLength.Statement (.evpsraqZmmImm mask dst src imm) := by
  rw [EncodeLength.Statement, encode, encodeEvexImm_length, source_tail_length, Instr.len]

end Sys2Proof.Laws
end

