-- ==== Sys2Proof/Laws/Skeleton.lean ====
section
/-! SUPPORT. Said once: what each shared operation can answer. -/

namespace Sys2Proof.Machine

/-! ### The skeleton -/

/-- What passing the enable checks means. -/
structure Passes (s : State) (w : Needs) (regs : List (BitVec 5)) : Prop where
  mode : s.params.mode = .mode64
  ud : udCause s.params w regs = false
  nm : s.params.tsSet = false
  mf : (s.params.x87Pending && w.cls == .mmx) = false
  views : viewsExist s.params w = true

theorem enableFault_eq_none {p : Params} {w : Needs} {regs : List (BitVec 5)} :
    enableFault p w regs = none ↔
      udCause p w regs = false ∧ p.tsSet = false ∧ (p.x87Pending && w.cls == .mmx) = false := by
  unfold enableFault
  cases udCause p w regs <;> cases p.tsSet <;> cases p.x87Pending && w.cls == .mmx <;> simp

theorem enter_of_passes {s : State} {w : Needs} {regs : List (BitVec 5)} (h : Passes s w regs) (body : Result) :
    enter s w regs body = body := by
  have e := enableFault_eq_none.2 ⟨h.ud, h.nm, h.mf⟩
  simp [enter, h.mode, e, h.views]

/-- A next state out of `enter` is one out of its body, with all checks passed. -/
theorem enter_next {s t : State} {w : Needs} {regs : List (BitVec 5)} {body : Result}
    (h : enter s w regs body = .next t) : Passes s w regs ∧ body = .next t := by
  unfold enter at h
  split at h
  · cases h
  · rename_i hm
    split at h
    · cases h
    · rename_i he
      obtain ⟨h1, h2, h3⟩ := enableFault_eq_none.1 he
      split at h
      · rename_i hv
        refine ⟨⟨?_, h1, h2, h3, hv⟩, h⟩
        cases hmode : s.params.mode with
        | mode64 => rfl
        | mode32 => exact absurd hmode hm
      · cases h

/-- A fault out of `enter` is the first enable fault, or one out of its body with all checks passed. -/
theorem enter_fault {s : State} {x : Fault} {w : Needs} {regs : List (BitVec 5)} {body : Result}
    (h : enter s w regs body = .fault x) :
    (s.params.mode = .mode64 ∧ enableFault s.params w regs = some x) ∨ (Passes s w regs ∧ body = .fault x) := by
  unfold enter at h
  split at h
  · cases h
  · rename_i hm
    have hmode : s.params.mode = .mode64 := by
      cases e : s.params.mode with
      | mode64 => rfl
      | mode32 => exact absurd e hm
    split at h
    · rename_i y he
      cases h
      exact .inl ⟨hmode, he⟩
    · rename_i he
      obtain ⟨h1, h2, h3⟩ := enableFault_eq_none.1 he
      split at h
      · rename_i hv
        exact .inr ⟨⟨hmode, h1, h2, h3, hv⟩, h⟩
      · cases h

theorem enter_of_fault {s : State} {x : Fault} {w : Needs} {regs : List (BitVec 5)} (body : Result)
    (hm : s.params.mode = .mode64) (h : enableFault s.params w regs = some x) : enter s w regs body = .fault x := by
  simp [enter, hm, h, raise]

theorem enter_mode32 {s : State} (w : Needs) (regs : List (BitVec 5)) (body : Result)
    (hm : s.params.mode = .mode32) : enter s w regs body = .refused .modeNotModelled := by
  simp [enter, hm]

theorem withOperand_next {α : Type} {o : Except Fault α} {body : α → Result} {t : State}
    (h : withOperand o body = .next t) : ∃ v, o = .ok v ∧ body v = .next t := by
  cases o with
  | ok v => exact ⟨v, rfl, h⟩
  | error x => cases h

theorem withOperand_fault {α : Type} {o : Except Fault α} {body : α → Result} {x : Fault}
    (h : withOperand o body = .fault x) : o = .error x ∨ ∃ v, o = .ok v ∧ body v = .fault x := by
  cases o with
  | ok v => exact .inr ⟨v, rfl, h⟩
  | error y => cases h; exact .inl rfl

@[simp] theorem withOperand_ok {α : Type} (v : α) (body : α → Result) : withOperand (.ok v) body = body v := rfl

@[simp] theorem withOperand_error {α : Type} (x : Fault) (body : α → Result) :
    withOperand (.error x) body = .fault x := rfl

/-! ### Loads -/

theorem load_ok {w : Nat} {s : State} {a : Addr} (h : accessible s.params .data a (w / 8) = true) :
    load w s a = .ok (s.memRead w a) := by
  simp [load, h]

theorem load_error {w : Nat} {s : State} {a : Addr} (h : accessible s.params .data a (w / 8) = false) :
    load w s a = .error (.memFault a (w / 8)) := by
  simp [load, h]

/-- A load answers the bytes when they are accessible, and a memory fault with address and size when not. -/
theorem load_cases (w : Nat) (s : State) (a : Addr) :
    (accessible s.params .data a (w / 8) = true ∧ load w s a = .ok (s.memRead w a)) ∨
      (accessible s.params .data a (w / 8) = false ∧ load w s a = .error (.memFault a (w / 8))) := by
  cases h : accessible s.params .data a (w / 8) with
  | true => exact .inl ⟨rfl, load_ok h⟩
  | false => exact .inr ⟨rfl, load_error h⟩

/-! ### The shared shift operations: what a next state is -/

theorem mmxByRm_next {n : Nat} {rex : Bool} {d : BitVec 3} {cnt : RegMem 3} {s t : State}
    (h : mmxByRm n rex d cnt s = .next t) :
    Passes s (needsMmx (d :: rmMmRegs cnt)) [] ∧ ∃ c, s.countMm (legacyLen false rex cnt.len 0) cnt = .ok c ∧
      t = (s.setMm d (packedSra n (s.readMm d) c)).advance (legacyLen false rex cnt.len 0) := by
  obtain ⟨hp, hb⟩ := enter_next h
  obtain ⟨c, hc, hf⟩ := withOperand_next hb
  exact ⟨hp, c, hc, by simpa [finishMm] using hf.symm⟩

theorem mmxByImm_next {n : Nat} {rex : Bool} {d : BitVec 3} {imm : BitVec 8} {s t : State}
    (h : mmxByImm n rex d imm s = .next t) :
    Passes s (needsMmx [d]) [] ∧
      t = (s.setMm d (packedSra n (s.readMm d) imm.toNat)).advance (legacyLen false rex 0 1) := by
  obtain ⟨hp, hb⟩ := enter_next h
  exact ⟨hp, by simpa [finishMm] using hb.symm⟩

theorem sseByRm_next {n : Nat} {rex : Bool} {d : BitVec 4} {cnt : RegMem 4} {s t : State}
    (h : sseByRm n rex d cnt s = .next t) :
    Passes s needsSse2 (wide d :: rmRegs (wideRm cnt)) ∧
      ∃ c, s.countXmm true (legacyLen true rex cnt.len 0) 1 (wideRm cnt) = .ok c ∧
        t = (s.setVr (wide d) (keepUpper (s.readVr (wide d)) (packedSra n (s.view 128 (wide d)) c))).advance
          (legacyLen true rex cnt.len 0) := by
  obtain ⟨hp, hb⟩ := enter_next h
  obtain ⟨c, hc, hf⟩ := withOperand_next hb
  exact ⟨hp, c, hc, by simpa [finishVr] using hf.symm⟩

theorem sseByImm_next {n : Nat} {rex : Bool} {d : BitVec 4} {imm : BitVec 8} {s t : State}
    (h : sseByImm n rex d imm s = .next t) :
    Passes s needsSse2 [wide d] ∧
      t = (s.setVr (wide d) (keepUpper (s.readVr (wide d)) (packedSra n (s.view 128 (wide d)) imm.toNat))).advance
        (legacyLen true rex 0 1) := by
  obtain ⟨hp, hb⟩ := enter_next h
  exact ⟨hp, by simpa [finishVr] using hb.symm⟩

theorem vexByRm_next {n vl : Nat} {f : VexForm} {d src : BitVec 4} {cnt : RegMem 4} {s t : State}
    (h : vexByRm n vl f d src cnt s = .next t) :
    Passes s (needsVex vl) (wide d :: wide src :: rmRegs (wideRm cnt)) ∧
      ∃ c, s.countXmm false (vexLen f cnt.len 0) 1 (wideRm cnt) = .ok c ∧
        t = (s.setVr (wide d) (zeroUpper (packedSra n (s.view vl (wide src)) c))).advance (vexLen f cnt.len 0) := by
  obtain ⟨hp, hb⟩ := enter_next h
  obtain ⟨c, hc, hf⟩ := withOperand_next hb
  exact ⟨hp, c, hc, by simpa [finishVr] using hf.symm⟩

theorem vexByImm_next {n vl : Nat} {f : VexForm} {d src : BitVec 4} {imm : BitVec 8} {s t : State}
    (h : vexByImm n vl f d src imm s = .next t) :
    Passes s (needsVex vl) [wide d, wide src] ∧
      t = (s.setVr (wide d) (zeroUpper (packedSra n (s.view vl (wide src)) imm.toNat))).advance (vexLen f 0 1) := by
  obtain ⟨hp, hb⟩ := enter_next h
  exact ⟨hp, by simpa [finishVr] using hb.symm⟩

theorem evexByRm_next {lf : Feature} {n vl : Nat} {m : Mask} {d src : BitVec 5} {cnt : RegMem 5} {s t : State}
    (h : evexByRm lf n vl m d src cnt s = .next t) :
    Passes s (needsEvex lf n vl m) (d :: src :: rmRegs cnt) ∧
      ∃ c, s.countXmm false (evexLen cnt.len 0) 16 cnt = .ok c ∧
        t = (s.setVr d (zeroUpper (s.masked n m (packedSra n (s.view vl src) c) (s.view vl d)))).advance
          (evexLen cnt.len 0) := by
  obtain ⟨hp, hb⟩ := enter_next h
  obtain ⟨c, hc, hf⟩ := withOperand_next hb
  exact ⟨hp, c, hc, by simpa [finishVr] using hf.symm⟩

theorem evexFullMem_next {lf : Feature} {n vl : Nat} {m : Mask} {d : BitVec 5} {src : RegMem 5} {imm : BitVec 8}
    {s t : State} (h : evexFullMem lf n vl m d src imm s = .next t) :
    Passes s (needsEvex lf n vl m) (d :: rmRegs src) ∧
      ∃ v, s.sourceFullMem vl (evexLen src.len 1) src = .ok v ∧
        t = (s.setVr d (zeroUpper (s.masked n m (packedSra n v imm.toNat) (s.view vl d)))).advance
          (evexLen src.len 1) := by
  obtain ⟨hp, hb⟩ := enter_next h
  obtain ⟨v, hv, hf⟩ := withOperand_next hb
  exact ⟨hp, v, hv, by simpa [finishVr] using hf.symm⟩

theorem evexFull_next {lf : Feature} {n vl : Nat} {m : Mask} {d : BitVec 5} {src : Source} {imm : BitVec 8}
    {s t : State} (h : evexFull lf n vl m d src imm s = .next t) :
    Passes s (needsEvex lf n vl m) (d :: sourceRegs src) ∧
      ∃ v, s.sourceFull n vl (evexLen src.len 1) m src = .ok v ∧
        t = (s.setVr d (zeroUpper (s.masked n m (packedSra n v imm.toNat) (s.view vl d)))).advance
          (evexLen src.len 1) := by
  obtain ⟨hp, hb⟩ := enter_next h
  obtain ⟨v, hv, hf⟩ := withOperand_next hb
  exact ⟨hp, v, hv, by simpa [finishVr] using hf.symm⟩

end Sys2Proof.Machine
end

