-- ==== Sys2Proof/Tests/Slice0.lean ====
section
/-! SUPPORT. Tests: ill-formed terms refused, words of the spec decoded, one step of every row on the spec's vectors, and for
every statement with hypotheses a state that meets them. Expected values are those of 95_test_vectors.md and of the examples
of files 41 to 45. -/

open Sys2Proof Sys2Proof.Machine Sys2Proof.Claims

namespace Sys2Proof.Tests

set_option Elab.async false

/-! ### WellFormed refuses -/

theorem test_wf_base_needs_sib : (Instr.psrawMmRm false 0#3 (.mem (.base .none 4#4))).wf = false := by decide
theorem test_wf_base_is_rip : (Instr.psrawMmRm false 0#3 (.mem (.base .none 5#4))).wf = false := by decide
theorem test_wf_base_disp_needs_sib : (Instr.psrawMmRm true 0#3 (.mem (.base (.d8 0#8) 12#4))).wf = false := by decide
theorem test_wf_sib_without_base : (Instr.psrawXmmRm true 0#4 (.mem (.sib .none 0#2 0#4 13#4))).wf = false := by decide
theorem test_wf_register_needs_rex : (Instr.psrawXmmRm false 8#4 (.reg 0#4)).wf = false := by decide
theorem test_wf_index_needs_rex : (Instr.psradXmmRm false 0#4 (.mem (.sib .none 0#2 8#4 0#4))).wf = false := by decide
theorem test_wf_base_bit_needs_rex : (Instr.psradMmRm false 0#3 (.mem (.base .none 8#4))).wf = false := by decide
theorem test_wf_imm_needs_rex : (Instr.psradXmmImm false 15#4 0#8).wf = false := by decide
theorem test_wf_vex2_has_no_b : (Instr.vpsrawXmmRm .vex2 0#4 0#4 (.reg 8#4)).wf = false := by decide
theorem test_wf_vex2_has_no_x : (Instr.vpsradYmmRm .vex2 0#4 0#4 (.mem (.sib .none 0#2 8#4 0#4))).wf = false := by decide
theorem test_wf_vex2_imm_has_no_b : (Instr.vpsradYmmImm .vex2 0#4 8#4 0#8).wf = false := by decide
theorem test_wf_zeroing_needs_mask : (Instr.evpsradZmmRm ⟨0#3, true⟩ 0#5 0#5 (.reg 0#5)).wf = false := by decide
theorem test_wf_broadcast_operand : (Instr.evpsradZmmImm ⟨0#3, false⟩ 0#5 (.bcst (.base .none 5#4)) 0#8).wf = false := by
  decide

/-! ### Words of 95_test_vectors.md section 1.3, one for every constructor -/

theorem test_decode_psraw_mm :
    decode [0x0F#8, 0xE1#8, 0xCA#8] = .ok (.psrawMmRm false 1#3 (.reg 2#3)) := by decide
theorem test_decode_psraw_mm_memory :
    decode [0x0F#8, 0xE1#8, 0x08#8] = .ok (.psrawMmRm false 1#3 (.mem (.base .none 0#4))) := by decide
theorem test_decode_psraw_xmm :
    decode [0x66#8, 0x45#8, 0x0F#8, 0xE1#8, 0xCA#8] = .ok (.psrawXmmRm true 9#4 (.reg 10#4)) := by decide
theorem test_decode_psraw_mm_imm :
    decode [0x0F#8, 0x71#8, 0xE1#8, 0x03#8] = .ok (.psrawMmImm false 1#3 3#8) := by decide
theorem test_decode_psraw_xmm_imm :
    decode [0x66#8, 0x41#8, 0x0F#8, 0x71#8, 0xE1#8, 0x03#8] = .ok (.psrawXmmImm true 9#4 3#8) := by decide
theorem test_decode_psrad_mm :
    decode [0x0F#8, 0xE2#8, 0xCA#8] = .ok (.psradMmRm false 1#3 (.reg 2#3)) := by decide
theorem test_decode_psrad_xmm :
    decode [0x66#8, 0x0F#8, 0xE2#8, 0x0B#8] = .ok (.psradXmmRm false 1#4 (.mem (.base .none 3#4))) := by decide
theorem test_decode_psrad_mm_imm :
    decode [0x0F#8, 0x72#8, 0xE1#8, 0x03#8] = .ok (.psradMmImm false 1#3 3#8) := by decide
theorem test_decode_psrad_xmm_imm :
    decode [0x66#8, 0x0F#8, 0x72#8, 0xE1#8, 0x03#8] = .ok (.psradXmmImm false 1#4 3#8) := by decide
theorem test_decode_vpsraw_xmm :
    decode [0xC4#8, 0x41#8, 0x29#8, 0xE1#8, 0xCB#8] = .ok (.vpsrawXmmRm (.vex3 false) 9#4 10#4 (.reg 11#4)) := by decide
theorem test_decode_vpsraw_xmm_wig :
    decode [0xC4#8, 0xE1#8, 0xE9#8, 0xE1#8, 0xCB#8] = .ok (.vpsrawXmmRm (.vex3 true) 1#4 2#4 (.reg 3#4)) := by decide
theorem test_decode_vpsraw_xmm_imm :
    decode [0xC4#8, 0xC1#8, 0x71#8, 0x71#8, 0xE2#8, 0x03#8] = .ok (.vpsrawXmmImm (.vex3 false) 1#4 10#4 3#8) := by decide
theorem test_decode_vpsrad_xmm :
    decode [0xC5#8, 0xE9#8, 0xE2#8, 0xCB#8] = .ok (.vpsradXmmRm .vex2 1#4 2#4 (.reg 3#4)) := by decide
theorem test_decode_vpsrad_xmm_imm :
    decode [0xC5#8, 0xF1#8, 0x72#8, 0xE2#8, 0x03#8] = .ok (.vpsradXmmImm .vex2 1#4 2#4 3#8) := by decide
theorem test_decode_vpsraw_ymm :
    decode [0xC5#8, 0xED#8, 0xE1#8, 0xCB#8] = .ok (.vpsrawYmmRm .vex2 1#4 2#4 (.reg 3#4)) := by decide
theorem test_decode_vpsraw_ymm_imm :
    decode [0xC5#8, 0xF5#8, 0x71#8, 0xE2#8, 0x03#8] = .ok (.vpsrawYmmImm .vex2 1#4 2#4 3#8) := by decide
theorem test_decode_vpsrad_ymm :
    decode [0xC5#8, 0x05#8, 0xE2#8, 0x44#8, 0x24#8, 0x08#8] = .ok (.vpsradYmmRm .vex2 8#4 15#4 (.mem (.sib (.d8 8#8) 0#2 4#4 4#4))) := by decide
theorem test_decode_vpsrad_ymm_imm :
    decode [0xC5#8, 0xF5#8, 0x72#8, 0xE2#8, 0x03#8] = .ok (.vpsradYmmImm .vex2 1#4 2#4 3#8) := by decide
theorem test_decode_evpsraw_xmm :
    decode [0x62#8, 0xF1#8, 0x6D#8, 0x09#8, 0xE1#8, 0xCB#8] = .ok (.evpsrawXmmRm false ⟨1#3, false⟩ 1#5 2#5 (.reg 3#5)) := by decide
theorem test_decode_evpsraw_ymm :
    decode [0x62#8, 0xF1#8, 0x6D#8, 0xA9#8, 0xE1#8, 0xCB#8] = .ok (.evpsrawYmmRm false ⟨1#3, true⟩ 1#5 2#5 (.reg 3#5)) := by decide
theorem test_decode_evpsraw_zmm :
    decode [0x62#8, 0xF1#8, 0x6D#8, 0x48#8, 0xE1#8, 0xCB#8] = .ok (.evpsrawZmmRm false ⟨0#3, false⟩ 1#5 2#5 (.reg 3#5)) := by decide
theorem test_decode_evpsraw_xmm_imm :
    decode [0x62#8, 0xF1#8, 0xF5#8, 0x08#8, 0x71#8, 0xE2#8, 0x03#8] = .ok (.evpsrawXmmImm true ⟨0#3, false⟩ 1#5 (.reg 2#5) 3#8) := by decide
theorem test_decode_evpsraw_ymm_imm :
    decode [0x62#8, 0xF1#8, 0x75#8, 0x29#8, 0x71#8, 0x20#8, 0x03#8] = .ok (.evpsrawYmmImm false ⟨1#3, false⟩ 1#5 (.mem (.base .none 0#4)) 3#8) := by decide
theorem test_decode_evpsraw_zmm_imm :
    decode [0x62#8, 0x91#8, 0x75#8, 0xC7#8, 0x71#8, 0xE6#8, 0xC8#8] = .ok (.evpsrawZmmImm false ⟨7#3, true⟩ 17#5 (.reg 30#5) 200#8) := by decide
theorem test_decode_evpsrad_xmm :
    decode [0x62#8, 0xF1#8, 0x6D#8, 0x09#8, 0xE2#8, 0xCB#8] = .ok (.evpsradXmmRm ⟨1#3, false⟩ 1#5 2#5 (.reg 3#5)) := by decide
theorem test_decode_evpsrad_ymm :
    decode [0x62#8, 0xF1#8, 0x6D#8, 0x29#8, 0xE2#8, 0xCB#8] = .ok (.evpsradYmmRm ⟨1#3, false⟩ 1#5 2#5 (.reg 3#5)) := by decide
theorem test_decode_evpsrad_zmm :
    decode [0x62#8, 0xF1#8, 0x6D#8, 0x48#8, 0xE2#8, 0xCB#8] = .ok (.evpsradZmmRm ⟨0#3, false⟩ 1#5 2#5 (.reg 3#5)) := by decide
theorem test_decode_evpsrad_xmm_imm :
    decode [0x62#8, 0xF1#8, 0x75#8, 0x89#8, 0x72#8, 0xE2#8, 0x04#8] = .ok (.evpsradXmmImm ⟨1#3, true⟩ 1#5 (.reg 2#5) 4#8) := by decide
theorem test_decode_evpsrad_ymm_imm :
    decode [0x62#8, 0xF1#8, 0x75#8, 0x39#8, 0x72#8, 0x20#8, 0x03#8] = .ok (.evpsradYmmImm ⟨1#3, false⟩ 1#5 (.bcst (.base .none 0#4)) 3#8) := by decide
theorem test_decode_evpsrad_zmm_imm :
    decode [0x62#8, 0xF1#8, 0x75#8, 0x48#8, 0x72#8, 0x20#8, 0x03#8] = .ok (.evpsradZmmImm ⟨0#3, false⟩ 1#5 (.mem (.base .none 0#4)) 3#8) := by decide
theorem test_decode_evpsraq_xmm :
    decode [0x62#8, 0xF1#8, 0xF5#8, 0x08#8, 0xE2#8, 0x68#8, 0x01#8] = .ok (.evpsraqXmmRm ⟨0#3, false⟩ 5#5 1#5 (.mem (.base (.d8 1#8) 0#4))) := by decide
theorem test_decode_evpsraq_ymm :
    decode [0x62#8, 0xF1#8, 0xED#8, 0x29#8, 0xE2#8, 0xCB#8] = .ok (.evpsraqYmmRm ⟨1#3, false⟩ 1#5 2#5 (.reg 3#5)) := by decide
theorem test_decode_evpsraq_zmm :
    decode [0x62#8, 0x81#8, 0x8D#8, 0x40#8, 0xE2#8, 0xC9#8] = .ok (.evpsraqZmmRm ⟨0#3, false⟩ 17#5 30#5 (.reg 25#5)) := by decide
theorem test_decode_evpsraq_xmm_imm :
    decode [0x62#8, 0xF1#8, 0xF5#8, 0x08#8, 0x72#8, 0xE2#8, 0x03#8] = .ok (.evpsraqXmmImm ⟨0#3, false⟩ 1#5 (.reg 2#5) 3#8) := by decide
theorem test_decode_evpsraq_ymm_imm :
    decode [0x62#8, 0xF1#8, 0xF5#8, 0x38#8, 0x72#8, 0x60#8, 0x01#8, 0x03#8] = .ok (.evpsraqYmmImm ⟨0#3, false⟩ 1#5 (.bcst (.base (.d8 1#8) 0#4)) 3#8) := by decide
theorem test_decode_evpsraq_zmm_imm :
    decode [0x62#8, 0xF1#8, 0xF5#8, 0x48#8, 0x72#8, 0x25#8, 0x00#8, 0x01#8, 0x00#8, 0x00#8, 0x05#8] = .ok (.evpsraqZmmImm ⟨0#3, false⟩ 1#5 (.mem (.rip 256#32)) 5#8) := by decide
theorem test_decode_evpsraq_zmm_imm_high :
    decode [0x62#8, 0x91#8, 0x8D#8, 0x40#8, 0x72#8, 0xE1#8, 0x03#8] = .ok (.evpsraqZmmImm ⟨0#3, false⟩ 30#5 (.reg 25#5) 3#8) := by decide

/-! ### Verdicts of 95_test_vectors.md sections 2.12 and 2.13 -/

theorem test_decode_lock : decode [0xF0#8, 0x66#8, 0x0F#8, 0xE1#8, 0xCA#8] = .ud := by decide
theorem test_decode_memory_on_register_form : decode [0x0F#8, 0x71#8, 0x20#8, 0x03#8] = .ud := by decide
theorem test_decode_prefix_before_vex : decode [0x66#8, 0xC5#8, 0xE9#8, 0xE1#8, 0xCB#8] = .ud := by decide
theorem test_decode_evex_length_reserved : decode [0x62#8, 0xF1#8, 0x6D#8, 0x69#8, 0xE1#8, 0xCB#8] = .ud := by decide
theorem test_decode_evex_zeroing_without_mask : decode [0x62#8, 0xF1#8, 0x6D#8, 0x88#8, 0xE1#8, 0xCB#8] = .ud := by decide
theorem test_decode_evex_broadcast_on_words : decode [0x62#8, 0xF1#8, 0x75#8, 0x18#8, 0x71#8, 0x20#8, 0x03#8] = .ud := by decide
theorem test_decode_nop : decode [0x90#8] = .outOfScope := by decide
theorem test_decode_psrlw : decode [0x66#8, 0x0F#8, 0x71#8, 0xD1#8, 0x03#8] = .outOfScope := by decide
theorem test_decode_opcode_73 : decode [0x66#8, 0x0F#8, 0x73#8, 0xD9#8, 0x03#8] = .outOfScope := by decide
theorem test_decode_f3 : decode [0xF3#8, 0x0F#8, 0xE1#8, 0xCA#8] = .outOfScope := by decide
theorem test_decode_address_size : decode [0x67#8, 0x66#8, 0x0F#8, 0xE1#8, 0x08#8] = .prefixNotAdmitted 0x67#8 := by decide
theorem test_decode_second_66 : decode [0x66#8, 0x66#8, 0x0F#8, 0xE1#8, 0xCA#8] = .prefixNotAdmitted 0x66#8 := by decide
theorem test_decode_rex_w : decode [0x66#8, 0x48#8, 0x0F#8, 0xE1#8, 0xCA#8] = .nonCanonical .rexW := by decide
theorem test_decode_rex_b_on_mmx : decode [0x41#8, 0x0F#8, 0x71#8, 0xE1#8, 0x03#8] = .nonCanonical .rexB := by decide
theorem test_decode_vex_r : decode [0xC5#8, 0x71#8, 0x71#8, 0xE2#8, 0x03#8] = .nonCanonical .vexR := by decide
/-- REX.B, VEX.B and EVEX.B where the operand is RIP-relative or a SIB byte without base (rule R54). -/
theorem test_decode_b_without_base :
    decode [0x66#8, 0x41#8, 0x0F#8, 0xE1#8, 0x05#8, 0#8, 0#8, 0#8, 0#8] = .nonCanonical .rexB ∧
      decode [0xC4#8, 0xC1#8, 0x71#8, 0xE2#8, 0x0D#8, 0#8, 0#8, 0#8, 0#8] = .nonCanonical .vexB ∧
      decode [0x62#8, 0xD1#8, 0xF5#8, 0x48#8, 0x72#8, 0x24#8, 0x25#8, 0#8, 0#8, 0#8, 0#8, 3#8] = .nonCanonical .evexB := by
  decide
theorem test_decode_too_short : decode [0x66#8, 0x0F#8, 0x71#8, 0xE1#8] = .more := by decide

/-! ### One step of every row, on the vectors and examples of the spec -/

/-- The machine after reset with an instruction's bytes at 0x10000. -/
def at10000 (bs : List Byte) : State := State.writeBytes { State.reset with rip := 0x10000#64 } 0x10000#64 bs

/-- Register `r` set to a number. -/
def withVr (s : State) (r : BitVec 5) (v : Nat) : State := s.setVr r (BitVec.ofNat 512 v)

def withMm (s : State) (r : BitVec 3) (v : Nat) : State := s.setMm r (BitVec.ofNat 64 v)

def withK (s : State) (r : Fin 8) (v : BitVec 64) : State := { s with k := s.k.set r v }

def withGpr (s : State) (r : Fin 16) (v : BitVec 64) : State := { s with gpr := s.gpr.set r v }

/-- Register `r` and `rip` after one step. -/
def vrAfter (s : State) (r : BitVec 5) : Option (Nat × Nat) :=
  match step s with
  | .next t => some ((t.readVr r).toNat, t.rip.toNat)
  | _ => none

def mmAfter (s : State) (r : BitVec 3) : Option (Nat × Nat) :=
  match step s with
  | .next t => some ((t.readMm r).toNat, t.rip.toNat)
  | _ => none

def faultOf (s : State) : Option Fault :=
  match step s with
  | .fault x => some x
  | _ => none

/-- A number whose digits to the base 2^n are given, the least significant first. -/
def digits (n : Nat) : List Nat → Nat
  | [] => 0
  | a :: as => a + 2 ^ n * digits n as

/-- Bits 511:128 all ones, over a 128-bit value. -/
def dirty (v : Nat) : Nat := 2 ^ 512 - 2 ^ 128 + v

def valX : Nat := 0x800000017FFFFFFF000080014000C000
def valY : Nat := 0x800000007FFFFFFFFFFFFFFE00000001
def valQ : Nat := 0x80000000000000007FFFFFFFFFFFFFFF
def wideX : Nat := 0x0123456789ABCDEFFEDCBA9876543210 * 2 ^ 128 + valX
def wideY : Nat := 0xDEADBEEF00000100FFFFFF0012345678 * 2 ^ 128 + valY
def allOnes512 : Nat := 2 ^ 512 - 1

/-- Row 1, V34. -/
theorem test_psraw_mm_all_64_count_bits :
    mmAfter (withMm (withMm (at10000 [0x0F#8, 0xE1#8, 0xCA#8]) 1 (0x80017FFFFFFE0004)) 2 (2 ^ 64 - 1)) 1 =
      some (0xFFFF0000FFFF0000, 65539) := by decide +kernel
/-- Row 1, V42. -/
theorem test_psraw_mm_misaligned_memory :
    mmAfter (State.writeBytes (withGpr (withMm (at10000 [0x0F#8, 0xE1#8, 0x08#8]) 1 (0x80017FFFFFFE0004)) 0 (0x1003#64)) 0x1003#64 [0x03#8, 0x00#8, 0x00#8, 0x00#8, 0x00#8, 0x00#8, 0x00#8, 0x00#8]) 1 =
      some (0xF0000FFFFFFF0000, 65539) := by decide +kernel
/-- Row 2, V87. -/
theorem test_psraw_xmm_count_is_destination :
    vrAfter (withVr (at10000 [0x66#8, 0x0F#8, 0xE1#8, 0xC9#8]) 1 (0x80004000200010000000000000000003)) 1 =
      some (0xF0000800040002000000000000000000, 65540) := by decide +kernel
/-- Row 2, V51. -/
theorem test_psraw_xmm_memory_keeps_upper :
    vrAfter (State.writeBytes (withGpr (withVr (at10000 [0x66#8, 0x0F#8, 0xE1#8, 0x08#8]) 1 (dirty valX)) 0 (0x2000#64)) 0x2000#64 [0x02#8, 0x00#8, 0x00#8, 0x00#8, 0x00#8, 0x00#8, 0x00#8, 0x00#8, 0xFF#8, 0xFF#8, 0xFF#8, 0xFF#8, 0xFF#8, 0xFF#8, 0xFF#8, 0xFF#8]) 1 =
      some (dirty 0xE00000001FFFFFFF0000E0001000F000, 65540) := by decide +kernel
/-- Row 3, V36 and Figure 4-18. -/
theorem test_psraw_mm_imm :
    mmAfter (withMm (at10000 [0x0F#8, 0x71#8, 0xE1#8, 0x01#8]) 1 (0x80017FFFFFFE0004)) 1 =
      some (0xC0003FFFFFFF0002, 65540) := by decide +kernel
/-- Row 4, V56. -/
theorem test_psraw_xmm_imm_rex_b :
    vrAfter (withVr (at10000 [0x66#8, 0x41#8, 0x0F#8, 0x71#8, 0xE1#8, 0x03#8]) 9 (dirty valX)) 9 =
      some (dirty 0xF00000000FFFFFFF0000F0000800F800, 65542) := by decide +kernel
/-- Row 5, V32. -/
theorem test_psrad_mm_unsigned_count :
    mmAfter (withMm (withMm (at10000 [0x0F#8, 0xE2#8, 0xCA#8]) 1 (0x800000017FFFFFFE)) 2 (2 ^ 63)) 1 =
      some (0xFFFFFFFF00000000, 65539) := by decide +kernel
/-- Row 6, V33. -/
theorem test_psrad_xmm_count_not_truncated :
    vrAfter (withVr (withVr (at10000 [0x66#8, 0x0F#8, 0xE2#8, 0xCA#8]) 1 (dirty valY)) 2 (2 ^ 32)) 1 =
      some (dirty 0xFFFFFFFF00000000FFFFFFFF00000000, 65540) := by decide +kernel
/-- Row 7, V46. -/
theorem test_psrad_mm_imm :
    mmAfter (withMm (at10000 [0x0F#8, 0x72#8, 0xE1#8, 0x1F#8]) 1 (0x800000017FFFFFFE)) 1 =
      some (0xFFFFFFFF00000000, 65540) := by decide +kernel
/-- Row 8, V52. -/
theorem test_psrad_xmm_imm :
    vrAfter (withVr (at10000 [0x66#8, 0x0F#8, 0x72#8, 0xE1#8, 0x04#8]) 1 (dirty valY)) 1 =
      some (dirty 0xF800000007FFFFFFFFFFFFFF00000000, 65541) := by decide +kernel
/-- Row 9, V57. -/
theorem test_vpsraw_xmm_zeroes_upper :
    vrAfter (withVr (withVr (withVr (at10000 [0xC5#8, 0xE9#8, 0xE1#8, 0xCB#8]) 1 (allOnes512)) 2 (valX)) 3 (2)) 1 =
      some (0xE00000001FFFFFFF0000E0001000F000, 65540) := by decide +kernel
/-- Row 10, V59. -/
theorem test_vpsraw_xmm_imm :
    vrAfter (withVr (withVr (at10000 [0xC5#8, 0xF1#8, 0x71#8, 0xE2#8, 0x0F#8]) 1 (allOnes512)) 2 (valX)) 1 =
      some (0xFFFF00000000FFFF0000FFFF0000FFFF, 65541) := by decide +kernel
/-- Row 11, V64. -/
theorem test_vpsrad_xmm_w_is_ignored :
    vrAfter (withVr (withVr (withVr (at10000 [0xC4#8, 0xE1#8, 0xE9#8, 0xE2#8, 0xCB#8]) 1 (allOnes512)) 2 (2 ^ 96)) 3 (1)) 1 =
      some (0, 65541) := by decide +kernel
/-- Row 12, V61. -/
theorem test_vpsrad_xmm_imm :
    vrAfter (withVr (withVr (at10000 [0xC5#8, 0xF1#8, 0x72#8, 0xE2#8, 0x20#8]) 1 (allOnes512)) 2 (valY)) 1 =
      some (0xFFFFFFFF00000000FFFFFFFF00000000, 65541) := by decide +kernel
/-- Row 13, V65. -/
theorem test_vpsraw_ymm :
    vrAfter (withVr (withVr (withVr (at10000 [0xC5#8, 0xED#8, 0xE1#8, 0xCB#8]) 1 (allOnes512)) 2 (wideX)) 3 (4)) 1 =
      some (0x00120456F89AFCDEFFEDFBA907650321F800000007FFFFFF0000F8000400FC00, 65540) := by decide +kernel
/-- Row 14, V66. -/
theorem test_vpsraw_ymm_imm :
    vrAfter (withVr (withVr (at10000 [0xC5#8, 0xF5#8, 0x71#8, 0xE2#8, 0x10#8]) 1 (allOnes512)) 2 (wideX)) 1 =
      some (0x00000000FFFFFFFFFFFFFFFF00000000FFFF00000000FFFF0000FFFF0000FFFF, 65541) := by decide +kernel
/-- Row 15, the example of R116. -/
theorem test_vpsrad_ymm_memory_count :
    vrAfter (State.writeBytes (withGpr (withVr (withVr (at10000 [0xC5#8, 0x05#8, 0xE2#8, 0x44#8, 0x24#8, 0x08#8]) 8 (allOnes512)) 15 (wideY)) 4 (0x2001#64)) 0x2009#64 [0x0C#8, 0x00#8, 0x00#8, 0x00#8, 0x00#8, 0x00#8, 0x00#8, 0x00#8, 0xFF#8]) 8 =
      some (0xFFFDEADB00000000FFFFFFFF00012345FFF800000007FFFFFFFFFFFF00000000, 65542) := by decide +kernel
/-- Row 16, V68. -/
theorem test_vpsrad_ymm_imm :
    vrAfter (withVr (withVr (at10000 [0xC5#8, 0xF5#8, 0x72#8, 0xE2#8, 0x1F#8]) 1 (allOnes512)) 2 (wideY)) 1 =
      some (0xFFFFFFFF00000000FFFFFFFF00000000FFFFFFFF00000000FFFFFFFF00000000, 65541) := by decide +kernel
/-- Row 17, V69. -/
theorem test_evpsraw_xmm_merges :
    vrAfter (withK (withVr (withVr (withVr (at10000 [0x62#8, 0xF1#8, 0x6D#8, 0x09#8, 0xE1#8, 0xCB#8]) 1 (dirty 0x11112222333344445555666677778888)) 2 (valX)) 3 (2)) 1 (0xA5#64)) 1 =
      some (0xE00022221FFF44445555E0007777F000, 65542) := by decide +kernel
/-- Row 18, V70. -/
theorem test_evpsraw_ymm_zeroes :
    vrAfter (withK (withVr (withVr (withVr (at10000 [0x62#8, 0xF1#8, 0x6D#8, 0xA9#8, 0xE1#8, 0xCB#8]) 1 (allOnes512)) 2 (wideX)) 3 (4)) 1 (0xF00F#64)) 1 =
      some (0x00120456F89AFCDE000000000000000000000000000000000000F8000400FC00, 65542) := by decide +kernel
/-- Row 19, program P5. -/
theorem test_evpsraw_zmm :
    vrAfter (withVr (withVr (at10000 [0x62#8, 0xF1#8, 0x6D#8, 0x48#8, 0xE1#8, 0xCB#8]) 2 (digits 16 (List.replicate 32 0x8000))) 3 (15)) 1 =
      some (allOnes512, 65542) := by decide +kernel
/-- Row 20, V73. -/
theorem test_evpsraw_xmm_imm_memory :
    vrAfter (State.writeBytes (withGpr (withVr (at10000 [0x62#8, 0xF1#8, 0x75#8, 0x08#8, 0x71#8, 0x20#8, 0x02#8]) 1 (allOnes512)) 0 (0x5000#64)) 0x5000#64 [0x00#8, 0xC0#8, 0x00#8, 0x40#8, 0x01#8, 0x80#8, 0x00#8, 0x00#8, 0xFF#8, 0xFF#8, 0xFF#8, 0x7F#8, 0x01#8, 0x00#8, 0x00#8, 0x80#8]) 1 =
      some (0xE00000001FFFFFFF0000E0001000F000, 65543) := by decide +kernel
/-- Row 21, the example of R124 with the low half of its source. -/
theorem test_evpsraw_ymm_imm_scaled_disp8 :
    vrAfter (State.writeBytes (withGpr (withK (withVr (at10000 [0x62#8, 0xF1#8, 0x75#8, 0x2A#8, 0x71#8, 0x60#8, 0x02#8, 0x02#8]) 1 (digits 16 (List.replicate 16 0xAAAA))) 2 (0x00FF#64)) 0 (0x5000#64)) 0x5040#64 [0x00#8, 0xC0#8, 0x00#8, 0x40#8, 0x01#8, 0x80#8, 0x00#8, 0x00#8, 0xFF#8, 0xFF#8, 0xFF#8, 0x7F#8, 0x01#8, 0x00#8, 0x00#8, 0x80#8]) 1 =
      some (0xAAAAAAAAAAAAAAAAAAAAAAAAAAAAAAAAE00000001FFFFFFF0000E0001000F000, 65544) := by decide +kernel
/-- Row 22, V104. -/
theorem test_evpsraw_zmm_imm_high_registers :
    vrAfter (withK (withVr (withVr (at10000 [0x62#8, 0x91#8, 0x75#8, 0xC7#8, 0x71#8, 0xE6#8, 0xC8#8]) 30 (digits 16 (List.replicate 32 0x8000))) 17 (allOnes512)) 7 (0xFFFF0000#64)) 17 =
      some (2 ^ 512 - 2 ^ 256, 65543) := by decide +kernel
/-- Row 23 on the operands of V60. -/
theorem test_evpsrad_xmm :
    vrAfter (withVr (withVr (withVr (at10000 [0x62#8, 0xF1#8, 0x6D#8, 0x08#8, 0xE2#8, 0xCB#8]) 1 (allOnes512)) 2 (valY)) 3 (4)) 1 =
      some (0xF800000007FFFFFFFFFFFFFF00000000, 65542) := by decide +kernel
/-- Row 24, V79. -/
theorem test_evpsrad_ymm :
    vrAfter (withK (withVr (withVr (withVr (at10000 [0x62#8, 0xF1#8, 0x6D#8, 0x29#8, 0xE2#8, 0xCB#8]) 1 (allOnes512)) 2 (wideY)) 3 (8)) 1 (0xFF#64)) 1 =
      some (0xFFDEADBE00000001FFFFFFFF00123456FF800000007FFFFFFFFFFFFF00000000, 65542) := by decide +kernel
/-- Row 25, the lanes of V78 and its count in a register. -/
theorem test_evpsrad_zmm :
    vrAfter (withVr (withVr (at10000 [0x62#8, 0xF1#8, 0x6D#8, 0x48#8, 0xE2#8, 0xCB#8]) 2 (digits 32 [0x80000000, 0x88888889, 0x91111112, 0x9999999B])) 3 (28)) 1 =
      some (digits 32 [0xFFFFFFF8, 0xFFFFFFF8, 0xFFFFFFF9, 0xFFFFFFF9], 65542) := by decide +kernel
/-- Row 26, V76. -/
theorem test_evpsrad_xmm_imm_zeroes :
    vrAfter (withK (withVr (withVr (at10000 [0x62#8, 0xF1#8, 0x75#8, 0x89#8, 0x72#8, 0xE2#8, 0x04#8]) 1 (allOnes512)) 2 (valY)) 1 (0xFFFFFFF5#64)) 1 =
      some (0x0000000007FFFFFF0000000000000000, 65543) := by decide +kernel
/-- Row 27, V77. -/
theorem test_evpsrad_ymm_imm_broadcast :
    vrAfter (State.writeBytes (withGpr (withVr (at10000 [0x62#8, 0xF1#8, 0x75#8, 0x38#8, 0x72#8, 0x60#8, 0x01#8, 0x02#8]) 1 (allOnes512)) 0 (0x3000#64)) 0x3004#64 [0x85#8, 0xFF#8, 0xFF#8, 0xFF#8]) 1 =
      some (digits 32 (List.replicate 8 0xFFFFFFE1), 65544) := by decide +kernel
/-- Row 28, the first lanes of V78. -/
theorem test_evpsrad_zmm_imm :
    vrAfter (withVr (at10000 [0x62#8, 0xF1#8, 0x75#8, 0x48#8, 0x72#8, 0xE2#8, 0x1C#8]) 2 (digits 32 [0x80000000, 0x88888889, 0x91111112, 0x9999999B])) 1 =
      some (digits 32 [0xFFFFFFF8, 0xFFFFFFF8, 0xFFFFFFF9, 0xFFFFFFF9], 65543) := by decide +kernel
/-- Row 29, V82. -/
theorem test_evpsraq_xmm_merges :
    vrAfter (withK (withVr (withVr (withVr (at10000 [0x62#8, 0xF1#8, 0xED#8, 0x09#8, 0xE2#8, 0xCB#8]) 1 (dirty 0x11111111222222223333333344444444)) 2 (valQ)) 3 (1)) 1 (2#64)) 1 =
      some (0xC0000000000000003333333344444444, 65542) := by decide +kernel
/-- Row 30, the example of R141. -/
theorem test_evpsraq_ymm :
    vrAfter (State.writeBytes (withGpr (withVr (withVr (at10000 [0x62#8, 0xF1#8, 0xED#8, 0x28#8, 0xE2#8, 0x48#8, 0x01#8]) 1 (allOnes512)) 2 (0xFFFFFFFF000000000123456789ABCDEF80000000000000007FFFFFFFFFFFFFFF)) 0 (0x3000#64)) 0x3010#64 [0x24#8, 0x00#8, 0x00#8, 0x00#8, 0x00#8, 0x00#8, 0x00#8, 0x00#8, 0xAA#8]) 1 =
      some (0xFFFFFFFFFFFFFFFF0000000000123456FFFFFFFFF80000000000000007FFFFFF, 65543) := by decide +kernel
/-- Row 31, V85. -/
theorem test_evpsraq_zmm_high_registers :
    vrAfter (withVr (withVr (at10000 [0x62#8, 0x81#8, 0x8D#8, 0x40#8, 0xE2#8, 0xC9#8]) 30 (digits 64 (List.replicate 8 0x8000000000000010))) 25 (3)) 17 =
      some (digits 64 (List.replicate 8 0xF000000000000002), 65542) := by decide +kernel
/-- Row 32, V83. -/
theorem test_evpsraq_xmm_imm :
    vrAfter (withVr (withVr (at10000 [0x62#8, 0xF1#8, 0xF5#8, 0x08#8, 0x72#8, 0xE2#8, 0x40#8]) 1 (allOnes512)) 2 (valQ)) 1 =
      some (0xFFFFFFFFFFFFFFFF0000000000000000, 65543) := by decide +kernel
/-- Row 33, V84. -/
theorem test_evpsraq_ymm_imm_broadcast :
    vrAfter (State.writeBytes (withGpr (withVr (at10000 [0x62#8, 0xF1#8, 0xF5#8, 0x38#8, 0x72#8, 0x60#8, 0x01#8, 0x03#8]) 1 (allOnes512)) 0 (0x3000#64)) 0x3008#64 [0x10#8, 0x00#8, 0x00#8, 0x00#8, 0x00#8, 0x00#8, 0x00#8, 0x80#8]) 1 =
      some (digits 64 (List.replicate 4 0xF000000000000002), 65544) := by decide +kernel
/-- Row 34, the example (a) of R145. -/
theorem test_evpsraq_zmm_imm_zeroes :
    vrAfter (withK (withVr (withVr (at10000 [0x62#8, 0xF1#8, 0xF5#8, 0xC9#8, 0x72#8, 0xE2#8, 0x05#8]) 1 (allOnes512)) 2 (digits 64 [0, 0, 0, 0, 0xC444444444444444, 0xD555555555555555, 0xE666666666666666, 0xF777777777777777])) 1 (0xF0#64)) 1 =
      some (digits 64 [0, 0, 0, 0, 0xFE22222222222222, 0xFEAAAAAAAAAAAAAA, 0xFF33333333333333, 0xFFBBBBBBBBBBBBBB], 65543) := by decide +kernel

/-- V105: a misaligned count of row 2. -/
theorem test_misaligned_count : faultOf (withGpr (at10000 [0x66#8, 0x0F#8, 0xE1#8, 0x0B#8]) 3 0x2008#64) = some .gp0 := by
  decide +kernel

/-- V109: all 16 bytes of a count are loaded. -/
theorem test_count_loaded_whole :
    faultOf { withGpr (at10000 [0x66#8, 0x0F#8, 0xE1#8, 0x08#8]) 0 0x3000#64 with
      params := { Params.launch with denied := [⟨0x3008, 8, true, false⟩] } } = some (.memFault 0x3000#64 16) := by
  decide +kernel

/-! ### Every statement's hypotheses are met -/

/-- With the launch configuration every instruction is ready. -/
theorem launch_ready (s : State) (h : s.params = Params.launch) (i : Instr) : Ready s i := by
  refine ⟨by rw [h]; rfl, ?_, by rw [h]; rfl, fun _ => by rw [h]; rfl, ⟨?_, ?_, ?_, ?_⟩⟩
  · rw [h]
    rintro (⟨f, -, e⟩ | e | ⟨r, -, e⟩)
    · revert e; cases f <;> decide
    · revert e; cases i.osClass <;> decide
    · have := r.isLt; simp at e; omega
  · rw [h]; cases i <;> simp only [Instr.vl] <;> decide
  · rw [h]; cases i <;> simp only [Instr.maskBits, Instr.mask] <;> first | decide | (split <;> decide)
  · intro r _; have := r.isLt; simp only [h, launch_nmm]; omega
  · intro r _; have := r.isLt; simp only [h, launch_nk]; omega

/-- Registers 1 and 2 hold data, register 3 a count of 4; GPR[0] points at 16 bytes that hold a count of 4. -/
def demo : State :=
  State.writeBytes
    (withGpr (withMm (withVr (withVr (at10000 [0x66#8, 0x0F#8, 0xE1#8, 0xCB#8]) 2 wideY) 3 4) 2 0x8000000100000002) 0
      0x2000#64) 0x2000#64 [4#8]

theorem demo_params : demo.params = Params.launch := rfl

/-- `demo` where 16 bytes at 0x2000 cannot be read. -/
def demoDenied : State := { demo with params := { Params.launch with denied := [⟨0x2000, 16, true, false⟩] } }

theorem denied_ready (i : Instr) : Ready demoDenied i := by
  obtain ⟨h1, h2, h3, h4, v1, v2, v3, v4⟩ := launch_ready demo rfl i
  exact ⟨h1, h2, h3, h4, v1, v2, v3, v4⟩

/-- `[rax]` -/
def rax : Mem := .base .none 0#4

theorem witness_MmxShiftsByOperand_register :
    Ready demo (.psrawMmRm false 1#3 (.reg 2#3)) ∧
      MmCount demo (.psrawMmRm false 1#3 (.reg 2#3)) 0x8000000100000002 (.reg 2#3) :=
  ⟨launch_ready _ rfl _, by simp only [MmCount]; decide +kernel⟩

theorem witness_MmxShiftsByOperand_memory :
    Ready demo (.psradMmRm false 1#3 (.mem rax)) ∧ MmCount demo (.psradMmRm false 1#3 (.mem rax)) 4 (.mem rax) :=
  ⟨launch_ready _ rfl _, by simp only [MmCount]; decide +kernel⟩

theorem witness_MmxShiftsByImmediate :
    Ready demo (.psrawMmImm false 1#3 255#8) ∧ Ready demo (.psradMmImm true 7#3 0#8) :=
  ⟨launch_ready _ rfl _, launch_ready _ rfl _⟩

theorem witness_SseShiftsByOperand_register :
    Ready demo (.psrawXmmRm false 2#4 (.reg 3#4)) ∧
      XmmCount demo (.psrawXmmRm false 2#4 (.reg 3#4)) 1 4 (wideRm (.reg 3#4)) :=
  ⟨launch_ready _ rfl _, by simp only [XmmCount, wideRm]; decide +kernel⟩

theorem witness_SseShiftsByOperand_memory :
    Ready demo (.psradXmmRm false 2#4 (.mem rax)) ∧
      XmmCount demo (.psradXmmRm false 2#4 (.mem rax)) 1 4 (wideRm (.mem rax)) :=
  ⟨launch_ready _ rfl _, by simp only [XmmCount, wideRm]; decide +kernel⟩

theorem witness_SseShiftsByImmediate :
    Ready demo (.psrawXmmImm true 15#4 16#8) ∧ Ready demo (.psradXmmImm false 0#4 31#8) :=
  ⟨launch_ready _ rfl _, launch_ready _ rfl _⟩

theorem witness_VexShiftsByOperand_register :
    Ready demo (.vpsrawYmmRm .vex2 3#4 3#4 (.reg 3#4)) ∧
      XmmCount demo (.vpsrawYmmRm .vex2 3#4 3#4 (.reg 3#4)) 1 4 (wideRm (.reg 3#4)) :=
  ⟨launch_ready _ rfl _, by simp only [XmmCount, wideRm]; decide +kernel⟩

theorem witness_VexShiftsByOperand_memory :
    Ready demo (.vpsradXmmRm (.vex3 true) 1#4 2#4 (.mem rax)) ∧
      XmmCount demo (.vpsradXmmRm (.vex3 true) 1#4 2#4 (.mem rax)) 1 4 (wideRm (.mem rax)) :=
  ⟨launch_ready _ rfl _, by simp only [XmmCount, wideRm]; decide +kernel⟩

theorem witness_VexShiftsByImmediate :
    Ready demo (.vpsrawXmmImm .vex2 1#4 2#4 15#8) ∧ Ready demo (.vpsradYmmImm .vex2 1#4 2#4 32#8) :=
  ⟨launch_ready _ rfl _, launch_ready _ rfl _⟩

theorem witness_EvexWordsShiftByOperand_register :
    Ready demo (.evpsrawZmmRm false ⟨1#3, true⟩ 31#5 2#5 (.reg 3#5)) ∧
      XmmCount demo (.evpsrawZmmRm false ⟨1#3, true⟩ 31#5 2#5 (.reg 3#5)) 16 4 (.reg 3#5) :=
  ⟨launch_ready _ rfl _, by simp only [XmmCount]; decide +kernel⟩

theorem witness_EvexWordsShiftByOperand_memory :
    Ready demo (.evpsrawXmmRm true ⟨0#3, false⟩ 1#5 2#5 (.mem rax)) ∧
      XmmCount demo (.evpsrawXmmRm true ⟨0#3, false⟩ 1#5 2#5 (.mem rax)) 16 4 (.mem rax) :=
  ⟨launch_ready _ rfl _, by simp only [XmmCount]; decide +kernel⟩

theorem witness_EvexWordsShiftByImmediate_register :
    Ready demo (.evpsrawYmmImm false ⟨7#3, false⟩ 1#5 (.reg 2#5) 3#8) ∧
      FullMemLanes demo (.evpsrawYmmImm false ⟨7#3, false⟩ 1#5 (.reg 2#5) 3#8) 16 256
        (lane 16 (demo.view 256 2#5)) (.reg 2#5) :=
  ⟨launch_ready _ rfl _, rfl⟩

theorem witness_EvexWordsShiftByImmediate_memory :
    Ready demo (.evpsrawZmmImm false ⟨1#3, false⟩ 1#5 (.mem rax) 3#8) ∧
      FullMemLanes demo (.evpsrawZmmImm false ⟨1#3, false⟩ 1#5 (.mem rax) 3#8) 16 512
        (memLane demo 16 (demo.ea 7 64 rax)) (.mem rax) :=
  ⟨launch_ready _ rfl _, by decide +kernel, rfl⟩

theorem witness_EvexDoublewordsShiftByOperand :
    Ready demo (.evpsradYmmRm ⟨1#3, false⟩ 1#5 2#5 (.reg 3#5)) ∧
      XmmCount demo (.evpsradYmmRm ⟨1#3, false⟩ 1#5 2#5 (.reg 3#5)) 16 4 (.reg 3#5) ∧
      Ready demo (.evpsradZmmRm ⟨1#3, false⟩ 1#5 2#5 (.mem rax)) ∧
      XmmCount demo (.evpsradZmmRm ⟨1#3, false⟩ 1#5 2#5 (.mem rax)) 16 4 (.mem rax) :=
  ⟨launch_ready _ rfl _, by simp only [XmmCount]; decide +kernel, launch_ready _ rfl _, by simp only [XmmCount]; decide +kernel⟩

theorem witness_EvexDoublewordsShiftByImmediate_register :
    Ready demo (.evpsradXmmImm ⟨1#3, true⟩ 1#5 (.reg 2#5) 3#8) ∧
      FullLanes demo (.evpsradXmmImm ⟨1#3, true⟩ 1#5 (.reg 2#5) 3#8) 32 128 (lane 32 (demo.view 128 2#5)) (.reg 2#5) :=
  ⟨launch_ready _ rfl _, rfl⟩

theorem witness_EvexDoublewordsShiftByImmediate_memory :
    Ready demo (.evpsradZmmImm ⟨0#3, false⟩ 1#5 (.mem rax) 3#8) ∧
      FullLanes demo (.evpsradZmmImm ⟨0#3, false⟩ 1#5 (.mem rax) 3#8) 32 512
        (memLane demo 32 (demo.ea 7 64 rax)) (.mem rax) :=
  ⟨launch_ready _ rfl _, by decide +kernel, rfl⟩

theorem witness_EvexDoublewordsShiftByImmediate_broadcast :
    Ready demo (.evpsradYmmImm ⟨1#3, false⟩ 1#5 (.bcst rax) 3#8) ∧
      FullLanes demo (.evpsradYmmImm ⟨1#3, false⟩ 1#5 (.bcst rax) 3#8) 32 256
        (fun _ => memLane demo 32 (demo.ea 7 4 rax) 0) (.bcst rax) :=
  ⟨launch_ready _ rfl _, by decide +kernel, rfl⟩

theorem witness_EvexQuadwordsShiftByOperand :
    Ready demo (.evpsraqXmmRm ⟨1#3, true⟩ 1#5 2#5 (.reg 3#5)) ∧
      XmmCount demo (.evpsraqXmmRm ⟨1#3, true⟩ 1#5 2#5 (.reg 3#5)) 16 4 (.reg 3#5) ∧
      Ready demo (.evpsraqZmmRm ⟨0#3, false⟩ 1#5 2#5 (.mem rax)) ∧
      XmmCount demo (.evpsraqZmmRm ⟨0#3, false⟩ 1#5 2#5 (.mem rax)) 16 4 (.mem rax) :=
  ⟨launch_ready _ rfl _, by simp only [XmmCount]; decide +kernel, launch_ready _ rfl _, by simp only [XmmCount]; decide +kernel⟩

theorem witness_EvexQuadwordsShiftByImmediate_register :
    Ready demo (.evpsraqXmmImm ⟨1#3, true⟩ 1#5 (.reg 2#5) 63#8) ∧
      FullLanes demo (.evpsraqXmmImm ⟨1#3, true⟩ 1#5 (.reg 2#5) 63#8) 64 128 (lane 64 (demo.view 128 2#5)) (.reg 2#5) :=
  ⟨launch_ready _ rfl _, rfl⟩

theorem witness_EvexQuadwordsShiftByImmediate_memory :
    Ready demo (.evpsraqZmmImm ⟨0#3, false⟩ 1#5 (.mem rax) 64#8) ∧
      FullLanes demo (.evpsraqZmmImm ⟨0#3, false⟩ 1#5 (.mem rax) 64#8) 64 512
        (memLane demo 64 (demo.ea 7 64 rax)) (.mem rax) :=
  ⟨launch_ready _ rfl _, by decide +kernel, rfl⟩

theorem witness_EvexQuadwordsShiftByImmediate_broadcast :
    Ready demo (.evpsraqYmmImm ⟨1#3, false⟩ 1#5 (.bcst rax) 3#8) ∧
      FullLanes demo (.evpsraqYmmImm ⟨1#3, false⟩ 1#5 (.bcst rax) 3#8) 64 256
        (fun _ => memLane demo 64 (demo.ea 7 8 rax) 0) (.bcst rax) :=
  ⟨launch_ready _ rfl _, by decide +kernel, rfl⟩

/-- `demo` with FAULT_SUPPRESSION, the doubleword at 0x2004 not readable, and an opmask that selects lane 0 alone. -/
def demoSuppress (mask : BitVec 64) : State :=
  withK { demo with params := { Params.launch with faultSuppression := true, denied := [⟨0x2004, 4, true, false⟩] } } 1 mask

theorem suppress_ready (mask : BitVec 64) (i : Instr) : Ready (demoSuppress mask) i := by
  obtain ⟨h1, h2, h3, h4, v1, v2, v3, v4⟩ := launch_ready demo rfl i
  exact ⟨h1, h2, h3, h4, v1, v2, v3, v4⟩

theorem witness_SuppressedLanesDoNotFault_completes :
    Ready (demoSuppress 1#64) (.evpsradXmmImm ⟨1#3, false⟩ 1#5 (.mem rax) 3#8) ∧
      (demoSuppress 1#64).params.faultSuppression = true ∧
      ∀ j, j < 4 → (demoSuppress 1#64).selected ⟨1#3, false⟩ j = true →
        accessible (demoSuppress 1#64).params .data ((demoSuppress 1#64).ea 7 16 rax + BitVec.ofNat 64 (j * 4)) 4 = true :=
  ⟨suppress_ready _ _, rfl, by decide +kernel⟩

theorem witness_SuppressedLanesDoNotFault_faults :
    Ready (demoSuppress 2#64) (.evpsradXmmImm ⟨1#3, false⟩ 1#5 (.mem rax) 3#8) ∧
      (demoSuppress 2#64).params.faultSuppression = true ∧
      (demoSuppress 2#64).selected ⟨1#3, false⟩ 1 = true ∧
      accessible (demoSuppress 2#64).params .data ((demoSuppress 2#64).ea 7 16 rax + BitVec.ofNat 64 (1 * 4)) 4 = false :=
  ⟨suppress_ready _ _, rfl, by decide +kernel⟩

theorem witness_SuppressedLanesDoNotFault_broadcast :
    Ready (demoSuppress 0#64) (.evpsraqZmmImm ⟨1#3, true⟩ 1#5 (.bcst rax) 3#8) ∧
      (demoSuppress 0#64).params.faultSuppression = true ∧
      ∀ j, j < 8 → (demoSuppress 0#64).selected ⟨1#3, true⟩ j = false :=
  ⟨suppress_ready _ _, rfl, by decide +kernel⟩

theorem witness_SuppressedLanesDoNotFault_broadcast_faults :
    Ready (demoSuppress 1#64) (.evpsradXmmImm ⟨1#3, false⟩ 1#5 (.bcst (.base (.d8 1#8) 0#4)) 3#8) ∧
      (demoSuppress 1#64).params.faultSuppression = true ∧ (demoSuppress 1#64).selected ⟨1#3, false⟩ 0 = true ∧
      accessible (demoSuppress 1#64).params .data ((demoSuppress 1#64).ea 8 4 (.base (.d8 1#8) 0#4)) 4 = false :=
  ⟨suppress_ready _ _, rfl, by decide +kernel⟩

theorem witness_lane_widths :
    (∀ n ∈ [16, 32, 64], n = 16 ∨ n = 32 ∨ n = 64) ∧ 0 < 64 / 64 ∧ 31 < 512 / 16 ∧ 15 < 16 ∧ 63 < 64 := by decide

theorem witness_LaneShiftSaturatesAndComposes :
    (0 ≤ (0#16).toInt ∧ 0 ≤ (0x7FFF#16).toInt) ∧ (0x8000#16).toInt < 0 ∧ (0xFFFF#16).toInt < 0 := by decide

theorem witness_ReadsAreLittleEndian :
    accessible demo.params .data 0x2000#64 64 = true ∧ accessible demoDenied.params .data 0x1FFF#64 4 = false := by
  decide +kernel

theorem witness_WritesSetTheirBytes :
    Memory.wf demo.mem = true ∧ (∀ i, i < 2 → (0x2000#64 : Addr) ≠ 0xFFFFFFFFFFFFFFFF#64 + BitVec.ofNat 64 i) := by
  decide +kernel

/-- A state that completes its instruction, for the statements about a next state. -/
theorem witness_next_state :
    ∃ t, exec (.psrawXmmRm false 1#4 (.reg 3#4)) demo = .next t :=
  ⟨_, rfl⟩

theorem witness_UnmaskedEvexAgreesWithVex :
    (∃ t, exec (.vpsrawXmmRm .vex2 1#4 2#4 (.reg 3#4)) demo = .next t) ∧
      ∃ t, exec (.evpsrawXmmRm false ⟨0#3, false⟩ (wide 1#4) (wide 2#4) (.reg (wide 3#4))) demo = .next t :=
  ⟨⟨_, rfl⟩, ⟨_, rfl⟩⟩

theorem witness_GeneralRegistersOnlyAddress : (Instr.vpsrawXmmRm .vex2 1#4 2#4 (.reg 3#4)).access = none := rfl

theorem witness_OnlyLowMaskBitsMatter (m : Mask) (lanes : Nat) :
    (Instr.evpsraqXmmRm ⟨1#3, false⟩ 1#5 2#5 (.reg 3#5)).mask = some (m, lanes) → m.k ≠ 0#3 → ∀ j, j < lanes →
      ((Vector.replicate 8 (~~~3#64)).get m.k.toFin).getLsbD j = (demo.readK m.k).getLsbD j := by
  intro h _ j hj
  simp only [Instr.mask, Option.some.injEq, Prod.mk.injEq] at h
  obtain ⟨rfl, rfl⟩ := h
  revert j
  decide +kernel

theorem witness_InaccessibleOperandFaults :
    Ready demoDenied (.psrawXmmRm false 1#4 (.mem rax)) ∧
      (Instr.psrawXmmRm false 1#4 (.mem rax)).access = some ⟨rax, 16, 1⟩ ∧
      accessible demoDenied.params .data (operandAddress demoDenied (.psrawXmmRm false 1#4 (.mem rax)) ⟨rax, 16, 1⟩) 16 =
        false ∧
      (operandAddress demoDenied (.psrawXmmRm false 1#4 (.mem rax)) ⟨rax, 16, 1⟩).toNat % 16 = 0 ∧
      (Instr.psrawXmmRm false 1#4 (.mem rax)).fullRow = false :=
  ⟨denied_ready _, by decide +kernel⟩

theorem witness_InaccessibleOperandFaults_broadcast :
    Ready demoDenied (.evpsradZmmImm ⟨0#3, false⟩ 1#5 (.bcst rax) 3#8) ∧
      (Instr.evpsradZmmImm ⟨0#3, false⟩ 1#5 (.bcst rax) 3#8).access = some ⟨rax, 4, 4⟩ ∧
      accessible demoDenied.params .data
        (operandAddress demoDenied (.evpsradZmmImm ⟨0#3, false⟩ 1#5 (.bcst rax) 3#8) ⟨rax, 4, 4⟩) 4 = false ∧
      (Instr.evpsradZmmImm ⟨0#3, false⟩ 1#5 (.bcst rax) 3#8).alignedRow = false ∧
      demoDenied.params.faultSuppression = false :=
  ⟨denied_ready _, by decide +kernel⟩

theorem witness_memory_fault :
    exec (.vpsrawXmmRm .vex2 1#4 2#4 (.mem rax)) demoDenied = .fault (.memFault 0x2000#64 16) := rfl

/-- `demo` with alignment checking and GPR[0] one off. -/
def demoAc : State := withGpr { demo with params := { Params.launch with acEnabled := true } } 0 0x2001#64

theorem witness_AlignmentCheckOnMmxCounts :
    Ready demoAc (.psrawMmRm false 1#3 (.mem rax)) ∧ demoAc.params.acEnabled = true ∧
      (demoAc.ea (encode (.psrawMmRm false 1#3 (.mem rax))).length 1 rax).toNat % 8 ≠ 0 := by
  obtain ⟨h1, h2, h3, h4, v1, v2, v3, v4⟩ := launch_ready demo rfl (.psrawMmRm false 1#3 (.mem rax))
  exact ⟨⟨h1, h2, h3, h4, v1, v2, v3, v4⟩, by decide +kernel⟩

theorem witness_ExceptionsIgnoreData : SameAddressing demo (withVr demo 1 5) ∧ demo.params.faultSuppression = false :=
  ⟨⟨setVr_params _ _ _, setVr_rip _ _ _, fun _ => setVr_readGpr _ _ _ _⟩, rfl⟩

/-- R5's defaults for a processor of each vector length: SSE2 only, AVX2, AVX-512. -/
theorem test_default_widths :
    (⟨true, true, false, false, false, false, false⟩ : Features).defaultMaxVl = .v128 ∧
      (⟨true, true, true, true, false, false, false⟩ : Features).defaultMaxVl = .v256 ∧
      (⟨true, true, true, true, false, false, false⟩ : Features).defaultNvr .mode64 = 16 ∧
      (⟨true, true, true, true, true, false, false⟩ : Features).defaultNvr .mode64 = 32 ∧
      (⟨true, true, true, true, true, false, false⟩ : Features).defaultKw = .k16 := by
  decide

/-- An MMX register not below NMM, and a writemask not below NK, are absent views; `K[0]` is asked of nobody (log entry 9). -/
theorem test_absent_registers :
    exec (.psrawMmRm false 1#3 (.reg 2#3)) { demo with params := { Params.launch with nmm := 2 } } = .refused .viewAbsent ∧
      exec (.evpsradXmmRm ⟨3#3, false⟩ 1#5 2#5 (.reg 3#5)) { demo with params := { Params.launch with nk := 3 } } =
        .refused .viewAbsent ∧
      (exec (.evpsradXmmRm ⟨0#3, false⟩ 1#5 2#5 (.reg 3#5)) { demo with params := { Params.launch with nk := 0 } } matches
        .next _) :=
  ⟨rfl, rfl, rfl⟩

theorem witness_ConsistentProcessorsNeverRefuse :
    defaultWidths demo.params = true ∧ nestedFeatures demo.params.feat = true ∧ demo.params.mode = .mode64 := by
  decide

theorem witness_ControlRegistersGateEachClass :
    (∀ f ∈ (Instr.evpsraqZmmRm ⟨0#3, false⟩ 31#5 2#5 (.reg 3#5)).features, demo.params.feat.has f = true) ∧
      (∀ r ∈ (Instr.evpsraqZmmRm ⟨0#3, false⟩ 31#5 2#5 (.reg 3#5)).vectorRegs, r.toNat < demo.params.nvr) ∧
      classOn 8#64 0x40000#64 0xE6#64 .avx512 ∧ ¬ classOn 8#64 0x40000#64 0x66#64 .avx512 ∧
      classOn 0#64 0x40000#64 6#64 .avx ∧ classOn 0#64 0x200#64 0#64 .sse ∧ ¬ classOn 4#64 0x200#64 0#64 .sse ∧
      classOn 0#64 0#64 0#64 .mmx := by
  simp only [classOn]
  decide

theorem witness_decoding :
    (Instr.psradXmmRm true 9#4 (.mem (.sib (.d32 5#32) 3#2 13#4 12#4))).wf = true ∧
      (Instr.psradXmmRm true 9#4 (.mem (.sib (.d32 5#32) 3#2 13#4 12#4))).isLegacy = true ∧
      (Instr.psradXmmRm true 9#4 (.mem (.sib (.d32 5#32) 3#2 13#4 12#4))).osClass = .sse ∧
      (Instr.vpsradYmmRm .vex2 8#4 15#4 (.mem (.sib (.d8 8#8) 0#2 4#4 4#4))).wf = true ∧
      (Instr.vpsradYmmRm .vex2 8#4 15#4 (.mem (.sib (.d8 8#8) 0#2 4#4 4#4))).osClass = .avx ∧
      (Instr.evpsradYmmImm ⟨1#3, false⟩ 1#5 (.bcst rax) 3#8).wf = true ∧
      (Instr.evpsradYmmImm ⟨1#3, false⟩ 1#5 (.bcst rax) 3#8).osClass = .avx512 ∧
      (Instr.evpsradYmmImm ⟨1#3, false⟩ 1#5 (.reg 2#5) 3#8).wf = true ∧
      (Instr.evpsradYmmImm ⟨1#3, false⟩ 1#5 (.reg 2#5) 3#8).access = none ∧
      (Instr.evpsrawYmmImm false ⟨1#3, false⟩ 1#5 (.mem rax) 3#8).wf = true ∧
      (Instr.evpsrawYmmImm false ⟨1#3, false⟩ 1#5 (.mem rax) 3#8).fullRow = false := by decide

theorem witness_NoEncodingIsThePrefixOfAnother :
    (Instr.psrawMmRm false 1#3 (.reg 2#3)).wf = true ∧ 0 < (encode (.psrawMmRm false 1#3 (.reg 2#3))).length ∧
      2 < (encode (.psrawMmRm false 1#3 (.reg 2#3))).length := by decide

theorem witness_prefixes :
    isRex 0x40#8 = true ∧ isRex 0x4F#8 = true ∧
      xmmOf (.psrawMmRm false 7#3 (.reg 0#3)) = some (.psrawXmmRm false 7#4 (.reg 0#4)) ∧
      (Instr.psrawMmRm false 7#3 (.reg 0#3)).wf = true := by decide

theorem witness_RegisterOnlyFormsRejectMemory :
    Opcode.i71.isImm = true ∧ Opcode.i72.isImm = true ∧ rax.wf = true ∧ rax.extX = false ∧ rax.extB = false ∧
      (0xF1#8).extractLsb' 0 2 = 1#2 ∧ (0xF1#8).getLsbD 7 = true ∧ (0xE1#8).extractLsb' 0 5 = 1#5 ∧
      (0xE1#8).getLsbD 7 = true ∧ (0xE1#8).getLsbD 6 = !rax.extX ∧ (0xE1#8).getLsbD 5 = !rax.extB ∧
      (0x71#8).extractLsb' 0 2 = 1#2 := by decide

theorem witness_OtherOpcodesAreOutOfScope :
    (isLegacyByte 0x90#8 = false ∧ isRex 0x90#8 = false) ∧ ClassHead [0x0F#8] ∧
      AllPrefixes [0x66#8, 0x48#8] ∧ ClassHead [0x62#8, 0xF1#8, 0x75#8, 0x08#8] ∧ (0xD1#8).extractLsb' 3 3 ≠ 4#3 ∧
      (0xEA#8).extractLsb' 0 2 ≠ 1#2 ∧ (0xE2#8).extractLsb' 0 5 ≠ 1#5 ∧ (0xE1#8).extractLsb' 0 5 = 1#5 ∧
      (0xF2#8).extractLsb' 0 3 ≠ 1#3 ∧ (0xF1#8).extractLsb' 0 3 = 1#3 := by
  refine ⟨by decide, .inl rfl, by unfold AllPrefixes; decide, ?_, by decide, by decide, by decide, by decide, by decide,
    by decide⟩
  exact .inr (.inr (.inr (⟨0xF1#8, 0x75#8, 0x08#8, by decide, by decide, rfl⟩)))

theorem witness_MeaninglessBitsAreRefused :
    (rmSpelt (.mem (.rip 0#32)) = true ∧ rmSpelt (.reg 4#3) = true ∧ (Opcode.i71.isImm = true → (4#3 : BitVec 3) = 4#3)) ∧
      (0x71#8).extractLsb' 0 2 = 1#2 ∧ (0xF1#8).extractLsb' 0 3 = 1#3 ∧ (0xF5#8).extractLsb' 0 2 = 1#2 ∧
      (0xA1#8).extractLsb' 0 5 = 1#5 := by decide

theorem witness_StepRunsTheDecodedInstruction :
    demo.params.mode = .mode64 ∧ accessibleByte demo.params .fetch demo.rip = true ∧
      decode demo.window = .ok (.psrawXmmRm false 1#4 (.reg 3#4)) := by
  decide +kernel

theorem witness_StepRunsTheStoredInstruction :
    (Instr.psrawXmmRm false 1#4 (.reg 3#4)).wf = true ∧
      Holds demo demo.rip (encode (.psrawXmmRm false 1#4 (.reg 3#4))) := by
  unfold Holds
  decide +kernel

theorem witness_VerdictsBecomeOutcomes :
    decode (at10000 [0xF0#8, 0x0F#8, 0xE1#8, 0xCA#8]).window = .ud ∧ decode (at10000 [0x90#8]).window = .outOfScope ∧
      decode (at10000 [0x41#8, 0x0F#8, 0x71#8, 0xE1#8, 3#8]).window = .nonCanonical .rexB ∧
      decode (at10000 [0x67#8, 0x66#8, 0x0F#8, 0xE1#8, 8#8]).window = .prefixNotAdmitted 0x67#8 ∧
      (decode (at10000 (List.replicate 15 0x66#8)).window = .more ∧ (at10000 (List.replicate 15 0x66#8)).window.length = 15) ∧
      (∀ bs, accessibleByte (at10000 bs).params .fetch 0x10000#64 = true → (at10000 []).params.mode = .mode64) := by
  refine ⟨by decide +kernel, by decide +kernel, by decide +kernel, by decide +kernel, by decide +kernel, fun _ _ => rfl⟩

/-- `demo` where the instruction's third byte cannot be fetched. -/
def demoCut : State := { demo with params := { Params.launch with denied := [⟨0x10002, 1, false, true⟩] } }

theorem witness_VerdictsBecomeOutcomes_too_short : decode demoCut.window = .more ∧ demoCut.window.length = 2 := by
  decide +kernel

theorem witness_MissingByteIsAFetchFault :
    demoCut.params.mode = .mode64 ∧ 2 < (encode (.psrawXmmRm false 1#4 (.reg 3#4))).length ∧
      Holds demoCut demoCut.rip ((encode (.psrawXmmRm false 1#4 (.reg 3#4))).take 2) ∧
      accessibleByte demoCut.params .fetch (demoCut.rip + BitVec.ofNat 64 2) = false ∧
      accessibleByte { Params.launch with denied := [⟨0x10000, 1, false, true⟩] } .fetch demo.rip = false := by
  unfold Holds
  decide +kernel

theorem witness_OtherModesAreRefused :
    ({ demo with params := { Params.launch with mode := .mode32 } } : State).params.mode = .mode32 ∧
      accessibleByte { Params.launch with mode := .mode32 } .fetch demo.rip = true := by
  decide +kernel

theorem witness_RunsLeaveMemoryAndMasksAlone : ∃ t, Sys2Proof.core.run 1 demo = .next t := ⟨_, rfl⟩

/-- A state that meets the invariant and steps. -/
theorem witness_StepKeepsTheInvariant : Inv demo ∧ ∃ t, step demo = .next t := by
  refine ⟨⟨by decide +kernel, ?_, ?_, ?_, ?_, ?_⟩, ⟨_, rfl⟩⟩
  · intro r k hk; exact BitVec.getLsbD_of_ge _ _ hk
  · intro r hr; have := r.isLt; simp only [demo_params, launch_nvr] at hr; omega
  · intro r k hk; exact BitVec.getLsbD_of_ge _ _ hk
  · intro r hr; have := r.isLt; simp only [demo_params, launch_nmm] at hr; omega
  · intro r hr; have := r.isLt; simp only [demo_params, launch_nk] at hr; omega

/-! ### The host's table words -/

/-- PSRAW MM0, MM0 as the table numbers its bits, and with the first byte least significant (log entry 20). -/
theorem test_table_word :
    decodeTableWord 24 0x0FE1C0 = some (.psrawMmRm false 0#3 (.reg 0#3)) ∧
      decodeTableWord 24 0xC0E10F = some (.psrawMmRm false 0#3 (.reg 0#3)) := by
  decide +kernel

/-- The step after `withFetchWord` runs that instruction, 3 bytes past the reset address. -/
theorem test_fetch_word : mmAfter (State.reset.withFetchWord 24 0x0FE1C0) 0 = some (0, 0xFFFFFFF3) := by
  decide +kernel

end Sys2Proof.Tests
end

section
/-! PROOFS. What executing a row is, said once for all 34: the table's columns of a row gathered, and the nine shared operations
the rows run as. -/

namespace Sys2Proof

open Sys2Proof.Machine

/-- What the enable checks ask of an instruction, from the table's columns. -/
def Instr.needs (i : Instr) : Needs := ⟨i.features, i.osClass, i.vl, i.maskBits, i.mmRegs, i.maskRegs⟩

/-- The columns of a row that its execution depends on. -/
structure Columns where
  needs : Needs
  regs : List (BitVec 5)
  dest : Dest
  len : Nat
  access : Option Access
  mask : Option (Mask × Nat)

def Instr.columns (i : Instr) : Columns := ⟨i.needs, i.vectorRegs, i.dest, i.len, i.access, i.mask⟩

end Sys2Proof

namespace Sys2Proof.Machine

/-! ### Registers named by an operand, as the meanings and as the table's columns write them -/

theorem rmMmRegs_eq_mmNumbers (c : RegMem 3) : rmMmRegs c = c.mmNumbers := by cases c <;> rfl

theorem rmRegs_eq_numbers (c : RegMem 5) : rmRegs c = c.numbers := by
  cases c <;> simp [rmRegs, RegMem.numbers]

theorem rmRegs_wideRm (c : RegMem 4) : rmRegs (wideRm c) = c.numbers := by cases c <;> rfl

theorem sourceRegs_eq_numbers (c : Source) : sourceRegs c = c.numbers := by cases c <;> rfl

/-! ### The nine shared operations -/

/-- Row `i` runs as one of the nine shared operations, whose arguments agree with the columns of the row. -/
inductive RunsAs (i : Instr) : Prop
  | mmxByRm (n : Nat) (rex : Bool) (d : BitVec 3) (cnt : RegMem 3) (hexec : exec i = mmxByRm n rex d cnt)
    (hcol : i.columns =
      ⟨needsMmx (d :: rmMmRegs cnt), [], .mm d, legacyLen false rex cnt.len 0, cnt.access 8 1, none⟩)
  | mmxByImm (n : Nat) (rex : Bool) (d : BitVec 3) (imm : BitVec 8) (hexec : exec i = mmxByImm n rex d imm)
    (hcol : i.columns = ⟨needsMmx [d], [], .mm d, legacyLen false rex 0 1, none, none⟩)
  | sseByRm (n : Nat) (rex : Bool) (d : BitVec 4) (cnt : RegMem 4) (hexec : exec i = sseByRm n rex d cnt)
    (hcol : i.columns =
      ⟨needsSse2, wide d :: rmRegs (wideRm cnt), .vr (wide d), legacyLen true rex cnt.len 0, cnt.access 16 1, none⟩)
  | sseByImm (n : Nat) (rex : Bool) (d : BitVec 4) (imm : BitVec 8) (hexec : exec i = sseByImm n rex d imm)
    (hcol : i.columns = ⟨needsSse2, [wide d], .vr (wide d), legacyLen true rex 0 1, none, none⟩)
  | vexByRm (n vl : Nat) (f : VexForm) (d src : BitVec 4) (cnt : RegMem 4) (hexec : exec i = vexByRm n vl f d src cnt)
    (hcol : i.columns =
      ⟨needsVex vl, wide d :: wide src :: rmRegs (wideRm cnt), .vr (wide d), vexLen f cnt.len 0, cnt.access 16 1, none⟩)
  | vexByImm (n vl : Nat) (f : VexForm) (d src : BitVec 4) (imm : BitVec 8) (hexec : exec i = vexByImm n vl f d src imm)
    (hcol : i.columns = ⟨needsVex vl, [wide d, wide src], .vr (wide d), vexLen f 0 1, none, none⟩)
  | evexByRm (lf : Feature) (n vl : Nat) (m : Mask) (d src : BitVec 5) (cnt : RegMem 5)
    (hexec : exec i = evexByRm lf n vl m d src cnt)
    (hcol : i.columns =
      ⟨needsEvex lf n vl m, d :: src :: rmRegs cnt, .vr d, evexLen cnt.len 0, cnt.access 16 16, some (m, vl / n)⟩)
  | evexFullMem (lf : Feature) (n vl : Nat) (m : Mask) (d : BitVec 5) (src : RegMem 5) (imm : BitVec 8)
    (hexec : exec i = evexFullMem lf n vl m d src imm)
    (hcol : i.columns =
      ⟨needsEvex lf n vl m, d :: rmRegs src, .vr d, evexLen src.len 1, src.access (vl / 8) (vl / 8), some (m, vl / n)⟩)
  | evexFull (lf : Feature) (n vl : Nat) (m : Mask) (d : BitVec 5) (src : Source) (imm : BitVec 8)
    (hexec : exec i = evexFull lf n vl m d src imm)
    (hcol : i.columns =
      ⟨needsEvex lf n vl m, d :: sourceRegs src, .vr d, evexLen src.len 1, src.access (vl / 8) (n / 8),
        some (m, vl / n)⟩)

/-- Every row runs as one of the nine shared operations: the dispatch, read against the table's columns. -/
theorem runsAs (i : Instr) : RunsAs i := by
  cases i with
  | psrawMmRm rex d c => exact .mmxByRm 16 rex d c rfl (by rw [rmMmRegs_eq_mmNumbers]; rfl)
  | psrawXmmRm rex d c => exact .sseByRm 16 rex d c rfl (by rw [rmRegs_wideRm]; rfl)
  | psrawMmImm rex d imm => exact .mmxByImm 16 rex d imm rfl rfl
  | psrawXmmImm rex d imm => exact .sseByImm 16 rex d imm rfl rfl
  | psradMmRm rex d c => exact .mmxByRm 32 rex d c rfl (by rw [rmMmRegs_eq_mmNumbers]; rfl)
  | psradXmmRm rex d c => exact .sseByRm 32 rex d c rfl (by rw [rmRegs_wideRm]; rfl)
  | psradMmImm rex d imm => exact .mmxByImm 32 rex d imm rfl rfl
  | psradXmmImm rex d imm => exact .sseByImm 32 rex d imm rfl rfl
  | vpsrawXmmRm f d a c => exact .vexByRm 16 128 f d a c rfl (by rw [rmRegs_wideRm]; rfl)
  | vpsrawXmmImm f d a imm => exact .vexByImm 16 128 f d a imm rfl rfl
  | vpsradXmmRm f d a c => exact .vexByRm 32 128 f d a c rfl (by rw [rmRegs_wideRm]; rfl)
  | vpsradXmmImm f d a imm => exact .vexByImm 32 128 f d a imm rfl rfl
  | vpsrawYmmRm f d a c => exact .vexByRm 16 256 f d a c rfl (by rw [rmRegs_wideRm]; rfl)
  | vpsrawYmmImm f d a imm => exact .vexByImm 16 256 f d a imm rfl rfl
  | vpsradYmmRm f d a c => exact .vexByRm 32 256 f d a c rfl (by rw [rmRegs_wideRm]; rfl)
  | vpsradYmmImm f d a imm => exact .vexByImm 32 256 f d a imm rfl rfl
  | evpsrawXmmRm w m d a c => exact .evexByRm .avx512bw 16 128 m d a c rfl (by rw [rmRegs_eq_numbers]; rfl)
  | evpsrawYmmRm w m d a c => exact .evexByRm .avx512bw 16 256 m d a c rfl (by rw [rmRegs_eq_numbers]; rfl)
  | evpsrawZmmRm w m d a c => exact .evexByRm .avx512bw 16 512 m d a c rfl (by rw [rmRegs_eq_numbers]; rfl)
  | evpsrawXmmImm w m d a imm => exact .evexFullMem .avx512bw 16 128 m d a imm rfl (by rw [rmRegs_eq_numbers]; rfl)
  | evpsrawYmmImm w m d a imm => exact .evexFullMem .avx512bw 16 256 m d a imm rfl (by rw [rmRegs_eq_numbers]; rfl)
  | evpsrawZmmImm w m d a imm => exact .evexFullMem .avx512bw 16 512 m d a imm rfl (by rw [rmRegs_eq_numbers]; rfl)
  | evpsradXmmRm m d a c => exact .evexByRm .avx512f 32 128 m d a c rfl (by rw [rmRegs_eq_numbers]; rfl)
  | evpsradYmmRm m d a c => exact .evexByRm .avx512f 32 256 m d a c rfl (by rw [rmRegs_eq_numbers]; rfl)
  | evpsradZmmRm m d a c => exact .evexByRm .avx512f 32 512 m d a c rfl (by rw [rmRegs_eq_numbers]; rfl)
  | evpsradXmmImm m d a imm => exact .evexFull .avx512f 32 128 m d a imm rfl (by rw [sourceRegs_eq_numbers]; rfl)
  | evpsradYmmImm m d a imm => exact .evexFull .avx512f 32 256 m d a imm rfl (by rw [sourceRegs_eq_numbers]; rfl)
  | evpsradZmmImm m d a imm => exact .evexFull .avx512f 32 512 m d a imm rfl (by rw [sourceRegs_eq_numbers]; rfl)
  | evpsraqXmmRm m d a c => exact .evexByRm .avx512f 64 128 m d a c rfl (by rw [rmRegs_eq_numbers]; rfl)
  | evpsraqYmmRm m d a c => exact .evexByRm .avx512f 64 256 m d a c rfl (by rw [rmRegs_eq_numbers]; rfl)
  | evpsraqZmmRm m d a c => exact .evexByRm .avx512f 64 512 m d a c rfl (by rw [rmRegs_eq_numbers]; rfl)
  | evpsraqXmmImm m d a imm => exact .evexFull .avx512f 64 128 m d a imm rfl (by rw [sourceRegs_eq_numbers]; rfl)
  | evpsraqYmmImm m d a imm => exact .evexFull .avx512f 64 256 m d a imm rfl (by rw [sourceRegs_eq_numbers]; rfl)
  | evpsraqZmmImm m d a imm => exact .evexFull .avx512f 64 512 m d a imm rfl (by rw [sourceRegs_eq_numbers]; rfl)

end Sys2Proof.Machine
end

section
/-! PROOFS. What executing an instruction can answer, over all rows: every one is `enter` with the row's columns around a body
that faults on its memory operand only and otherwise writes the destination and moves `rip`. -/

namespace Sys2Proof.Machine

/-! ### Faults of an operand -/

/-- The faults an operand can raise (60_exceptions.md rule R154; 20_memory.md rule R36). -/
def OperandFault (x : Fault) : Prop := x = .gp0 ∨ ∃ a n, x = .memFault a n

theorem load_error_operandFault {w : Nat} {s : State} {a : Addr} {x : Fault} (h : load w s a = .error x) :
    OperandFault x := by
  obtain ⟨-, hl⟩ | ⟨-, hl⟩ := load_cases w s a
  · rw [hl] at h; cases h
  · rw [hl] at h; cases h; exact .inr ⟨_, _, rfl⟩

theorem countMm_error {s : State} {len : Nat} {cnt : RegMem 3} {x : Fault} (h : s.countMm len cnt = .error x) :
    OperandFault x := by
  cases cnt with
  | reg r => cases h
  | mem m =>
    simp only [State.countMm] at h
    split at h
    · cases h; exact .inr ⟨_, _, rfl⟩
    · split at h
      · cases h
      · cases h; exact load_error_operandFault ‹_›

theorem countXmm_error {s : State} {al : Bool} {len scale : Nat} {cnt : RegMem 5} {x : Fault}
    (h : s.countXmm al len scale cnt = .error x) : OperandFault x := by
  cases cnt with
  | reg r => cases h
  | mem m =>
    simp only [State.countXmm] at h
    split at h
    · cases h; exact .inl rfl
    · split at h
      · cases h
      · cases h; exact load_error_operandFault ‹_›

theorem sourceFullMem_error {s : State} {vl len : Nat} {src : RegMem 5} {x : Fault}
    (h : s.sourceFullMem vl len src = .error x) : OperandFault x := by
  cases src with
  | reg r => cases h
  | mem m => exact load_error_operandFault h

theorem sourceFull_error {s : State} {n vl len : Nat} {m : Mask} {src : Source} {x : Fault}
    (h : s.sourceFull n vl len m src = .error x) : OperandFault x := by
  cases src with
  | reg r => cases h
  | mem a | bcst a =>
    simp only [State.sourceFull] at h
    split at h
    · cases h
    · cases h; exact .inr ⟨_, _, rfl⟩

/-! ### Completion -/

/-- What a completed instruction has done: written its destination, which it names among its registers, and moved `rip` by its
length. From the vector length up a vector destination is zero or what it was (10_state.md rule R11). -/
inductive Completed (i : Instr) (s t : State) : Prop
  | mm (d : BitVec 3) (v : BitVec 64) (hdest : i.dest = .mm d) (hreg : d ∈ i.mmRegs)
    (heq : t = (s.setMm d v).advance i.len)
  | vr (d : BitVec 5) (v : VrWord) (hdest : i.dest = .vr d) (hreg : d ∈ i.vectorRegs)
    (hupper : ∀ k, i.vl ≤ k → v.getLsbD k = false ∨ v.getLsbD k = (s.readVr d).getLsbD k)
    (heq : t = (s.setVr d v).advance i.len)

/-- What the part of an instruction behind its enable checks can answer. -/
structure BodyOf (i : Instr) (s : State) (body : Result) : Prop where
  next : ∀ t, body = .next t → Completed i s t
  fault : ∀ x, body = .fault x → OperandFault x
  notRefused : ∀ r, body ≠ .refused r

theorem BodyOf.of_completed {i : Instr} {s t : State} (h : Completed i s t) : BodyOf i s (.next t) where
  next _ e := by cases e; exact h
  fault _ e := nomatch e
  notRefused _ e := nomatch e

theorem BodyOf.of_operandFault {i : Instr} {s : State} {x : Fault} (h : OperandFault x) : BodyOf i s (.fault x) where
  next _ e := nomatch e
  fault _ e := by cases e; exact h
  notRefused _ e := nomatch e

theorem BodyOf.withOperand {i : Instr} {s : State} {α : Type} {o : Except Fault α} {body : α → Result}
    (ho : ∀ x, o = .error x → OperandFault x) (hb : ∀ v, BodyOf i s (body v)) :
    BodyOf i s (withOperand o body) := by
  cases o with
  | ok v => exact hb v
  | error x => exact .of_operandFault (ho x rfl)

theorem BodyOf.finishMm {i : Instr} {s : State} {d : BitVec 3} {len : Nat} (v : BitVec 64)
    (hdest : i.dest = .mm d) (hreg : d ∈ i.mmRegs) (hlen : i.len = len) : BodyOf i s (finishMm s d v len) :=
  .of_completed (.mm d v hdest hreg (by rw [hlen]))

/-- A write that zeroes the upper bits, as the VEX and EVEX rows do. -/
theorem BodyOf.finishVr_zeroUpper {i : Instr} {s : State} {d : BitVec 5} {vl len : Nat} (r : BitVec vl)
    (hdest : i.dest = .vr d) (hreg : d ∈ i.vectorRegs) (hvl : i.vl = vl) (hlen : i.len = len) :
    BodyOf i s (finishVr s d (zeroUpper r) len) :=
  .of_completed (.vr d _ hdest hreg (fun k hk => .inl (upper_zeroUpper r k (hvl ▸ hk))) (by rw [hlen]))

/-- A write that keeps the upper bits, as the legacy 128-bit rows do. -/
theorem BodyOf.finishVr_keepUpper {i : Instr} {s : State} {d : BitVec 5} {vl len : Nat} (r : BitVec vl)
    (hdest : i.dest = .vr d) (hreg : d ∈ i.vectorRegs) (hvl : i.vl = vl) (hlen : i.len = len) :
    BodyOf i s (finishVr s d (keepUpper (s.readVr d) r) len) :=
  .of_completed (.vr d _ hdest hreg (fun k hk => .inr (upper_keepUpper _ r k (hvl ▸ hk))) (by rw [hlen]))

/-! ### Every instruction -/

/-- Every instruction is the enable checks of its columns around a body that completes or faults on its operand. -/
theorem exec_eq_enter (i : Instr) (s : State) :
    ∃ body, exec i s = enter s i.needs i.vectorRegs body ∧ BodyOf i s body := by
  cases runsAs i with
  | mmxByRm n rex d cnt hexec hcol =>
    obtain ⟨hneeds, hregs, hdest, hlen, -, -⟩ := Columns.mk.inj hcol
    have hmm : i.mmRegs = d :: rmMmRegs cnt := congrArg Needs.mmRegs hneeds
    rw [hexec, hneeds, hregs]
    exact ⟨_, rfl, .withOperand (fun _ => countMm_error) fun c => .finishMm _ hdest (by simp [hmm]) hlen⟩
  | mmxByImm n rex d imm hexec hcol =>
    obtain ⟨hneeds, hregs, hdest, hlen, -, -⟩ := Columns.mk.inj hcol
    have hmm : i.mmRegs = [d] := congrArg Needs.mmRegs hneeds
    rw [hexec, hneeds, hregs]
    exact ⟨_, rfl, .finishMm _ hdest (by simp [hmm]) hlen⟩
  | sseByRm n rex d cnt hexec hcol =>
    obtain ⟨hneeds, hregs, hdest, hlen, -, -⟩ := Columns.mk.inj hcol
    have hvl : i.vl = 128 := congrArg Needs.vl hneeds
    have hreg : wide d ∈ i.vectorRegs := by simp [hregs]
    rw [hexec, hneeds, hregs]
    exact ⟨_, rfl, .withOperand (fun _ => countXmm_error) fun c => .finishVr_keepUpper _ hdest hreg hvl hlen⟩
  | sseByImm n rex d imm hexec hcol =>
    obtain ⟨hneeds, hregs, hdest, hlen, -, -⟩ := Columns.mk.inj hcol
    have hvl : i.vl = 128 := congrArg Needs.vl hneeds
    have hreg : wide d ∈ i.vectorRegs := by simp [hregs]
    rw [hexec, hneeds, hregs]
    exact ⟨_, rfl, .finishVr_keepUpper _ hdest hreg hvl hlen⟩
  | vexByRm n vl f d src cnt hexec hcol =>
    obtain ⟨hneeds, hregs, hdest, hlen, -, -⟩ := Columns.mk.inj hcol
    have hvl : i.vl = vl := congrArg Needs.vl hneeds
    have hreg : wide d ∈ i.vectorRegs := by simp [hregs]
    rw [hexec, hneeds, hregs]
    exact ⟨_, rfl, .withOperand (fun _ => countXmm_error) fun c => .finishVr_zeroUpper _ hdest hreg hvl hlen⟩
  | vexByImm n vl f d src imm hexec hcol =>
    obtain ⟨hneeds, hregs, hdest, hlen, -, -⟩ := Columns.mk.inj hcol
    have hvl : i.vl = vl := congrArg Needs.vl hneeds
    have hreg : wide d ∈ i.vectorRegs := by simp [hregs]
    rw [hexec, hneeds, hregs]
    exact ⟨_, rfl, .finishVr_zeroUpper _ hdest hreg hvl hlen⟩
  | evexByRm lf n vl m d src cnt hexec hcol =>
    obtain ⟨hneeds, hregs, hdest, hlen, -, -⟩ := Columns.mk.inj hcol
    have hvl : i.vl = vl := congrArg Needs.vl hneeds
    have hreg : d ∈ i.vectorRegs := by simp [hregs]
    rw [hexec, hneeds, hregs]
    exact ⟨_, rfl, .withOperand (fun _ => countXmm_error) fun c => .finishVr_zeroUpper _ hdest hreg hvl hlen⟩
  | evexFullMem lf n vl m d src imm hexec hcol =>
    obtain ⟨hneeds, hregs, hdest, hlen, -, -⟩ := Columns.mk.inj hcol
    have hvl : i.vl = vl := congrArg Needs.vl hneeds
    have hreg : d ∈ i.vectorRegs := by simp [hregs]
    rw [hexec, hneeds, hregs]
    exact ⟨_, rfl, .withOperand (fun _ => sourceFullMem_error) fun c => .finishVr_zeroUpper _ hdest hreg hvl hlen⟩
  | evexFull lf n vl m d src imm hexec hcol =>
    obtain ⟨hneeds, hregs, hdest, hlen, -, -⟩ := Columns.mk.inj hcol
    have hvl : i.vl = vl := congrArg Needs.vl hneeds
    have hreg : d ∈ i.vectorRegs := by simp [hregs]
    rw [hexec, hneeds, hregs]
    exact ⟨_, rfl, .withOperand (fun _ => sourceFull_error) fun c => .finishVr_zeroUpper _ hdest hreg hvl hlen⟩

/-- An instruction that completes has passed its enable checks and written its destination and `rip`. -/
theorem exec_next {i : Instr} {s t : State} (h : exec i s = .next t) :
    Passes s i.needs i.vectorRegs ∧ Completed i s t := by
  obtain ⟨body, hexec, hbody⟩ := exec_eq_enter i s
  exact (enter_next (hexec ▸ h)).imp_right (hbody.next t)

/-- A fault of an instruction is the first of its enable checks, or its operand's with all checks passed. -/
theorem exec_fault {i : Instr} {s : State} {x : Fault} (h : exec i s = .fault x) :
    (s.params.mode = .mode64 ∧ enableFault s.params i.needs i.vectorRegs = some x) ∨
      (Passes s i.needs i.vectorRegs ∧ OperandFault x) := by
  obtain ⟨body, hexec, hbody⟩ := exec_eq_enter i s
  exact (enter_fault (hexec ▸ h)).imp_right (And.imp_right (hbody.fault x))

theorem exec_of_enableFault {i : Instr} {s : State} {x : Fault} (hm : s.params.mode = .mode64)
    (h : enableFault s.params i.needs i.vectorRegs = some x) : exec i s = .fault x := by
  obtain ⟨body, hexec, -⟩ := exec_eq_enter i s
  exact hexec.trans (enter_of_fault body hm h)

end Sys2Proof.Machine
end

section
/-! PROOFS. The invariant: every step keeps it, the state after reset meets it. -/

namespace Sys2Proof.Machine

/-! ### The writes keep the invariant -/

/-- No cause of #UD means that every vector register named is below NVR (30_encoding.md rule R61). -/
theorem regs_lt_of_not_udCause {p : Params} {w : Needs} {regs : List (BitVec 5)} (h : udCause p w regs = false) :
    ∀ r ∈ regs, r.toNat < p.nvr := by
  simp only [udCause, Bool.or_eq_false_iff, List.any_eq_false, decide_eq_true_eq, Nat.not_le] at h
  obtain ⟨-, hregs⟩ := h
  exact hregs

theorem viewsExist_iff {p : Params} {w : Needs} :
    viewsExist p w = true ↔ w.vl ≤ p.maxvl.bits ∧ w.maskBits ≤ p.kw.bits ∧ (∀ r ∈ w.mmRegs, r.toNat < p.nmm) ∧
      ∀ r ∈ w.maskRegs, r.toNat < p.nk := by
  simp only [viewsExist, Bool.and_eq_true, List.all_eq_true, decide_eq_true_eq, and_assoc]

theorem Inv.advance {s : State} (h : Inv s) (n : Nat) : Inv (s.advance n) :=
  ⟨h.mem, h.width, h.absent, h.mask, h.absentMm, h.absentMask⟩

/-- Writing an MMX register below NMM keeps the invariant. -/
theorem Inv.setMm {s : State} (h : Inv s) {d : BitVec 3} (v : BitVec 64) (hd : d.toNat < s.params.nmm) :
    Inv (s.setMm d v) where
  mem := h.mem
  width := h.width
  absent := h.absent
  mask := h.mask
  absentMm r hr := by
    have hne : r ≠ d := by
      rintro rfl
      exact absurd hd (Nat.not_lt.2 hr)
    rw [readMm_setMm_ne s v hne]
    exact h.absentMm r hr
  absentMask := h.absentMask

/-- Writing a vector register below NVR with a word that has nothing above MAXVL keeps the invariant. -/
theorem Inv.setVr {s : State} (h : Inv s) {d : BitVec 5} {v : VrWord} (hd : d.toNat < s.params.nvr)
    (hv : ∀ k, s.params.maxvl.bits ≤ k → v.getLsbD k = false) : Inv (s.setVr d v) where
  mem := h.mem
  width r k hk := by
    by_cases hrd : r = d
    · subst hrd
      rw [readVr_setVr_same]
      exact hv k hk
    · rw [readVr_setVr_ne s v hrd]
      exact h.width r k hk
  absent r hr := by
    have hne : r ≠ d := by
      rintro rfl
      exact absurd hd (Nat.not_lt.2 hr)
    rw [readVr_setVr_ne s v hne]
    exact h.absent r hr
  mask := h.mask
  absentMm := h.absentMm
  absentMask := h.absentMask

/-! ### Every instruction, every step -/

/-- A completed instruction has passed its checks, so its destination exists and its view lies within MAXVL: what it writes stays
inside the configured registers. -/
theorem exec_keeps_inv {i : Instr} {s t : State} (hinv : Inv s) (h : exec i s = .next t) : Inv t := by
  obtain ⟨hpass, hdone⟩ := exec_next h
  obtain ⟨hvl, -, hmm, -⟩ := viewsExist_iff.1 hpass.views
  cases hdone with
  | mm d v hdest hreg heq =>
    subst heq
    exact (hinv.setMm v (hmm d hreg)).advance _
  | vr d v hdest hreg hupper heq =>
    subst heq
    refine (hinv.setVr (regs_lt_of_not_udCause hpass.ud d hreg) fun k hk => ?_).advance _
    obtain hzero | hkept := hupper k (hvl.trans hk)
    · exact hzero
    · rw [hkept]; exact hinv.width d k hk

/-- A step that goes on is the execution of some instruction. -/
theorem step_next {s t : State} (h : step s = .next t) : ∃ i, exec i s = .next t := by
  unfold step at h
  split at h
  · exact ⟨_, h⟩
  · cases h
  · cases h

/-! ### The state after reset -/

@[simp] theorem reset_readVr (r : BitVec 5) : State.reset.readVr r = 0#512 := by
  simp [State.readVr, State.reset, Vector.get_eq_getElem]

@[simp] theorem reset_readMm (r : BitVec 3) : State.reset.readMm r = 0#64 := by
  simp [State.readMm, State.reset, Vector.get_eq_getElem]

@[simp] theorem reset_readK (r : BitVec 3) : State.reset.readK r = 0#64 := by
  simp [State.readK, State.reset, Vector.get_eq_getElem]

end Sys2Proof.Machine

namespace Sys2Proof.Claims

open Sys2Proof.Machine

/-- Settles O58: a step that goes on executes an instruction, and no instruction writes outside the configured registers. -/
theorem stepKeepsTheInvariant : Obligations.StepKeepsTheInvariant := by
  intro s t hinv hstep
  obtain ⟨i, hexec⟩ := step_next hstep
  exact exec_keeps_inv hinv hexec

/-- Settles O59: every register is zero after reset, and memory lists nothing. -/
theorem resetMeetsTheInvariant : Obligations.ResetMeetsTheInvariant where
  mem := rfl
  width := by simp
  absent := by simp
  mask := by simp
  absentMm := by simp
  absentMask := by simp

end Sys2Proof.Claims
end

section
/-! PROOFS. What the control registers decide: the first enable fault of an instruction, and with it #UD and #NM per class. -/

namespace Sys2Proof.Machine

/-- #UD and #NM come from the enable checks alone: no operand raises them. -/
theorem enableFault_of_exec_ud_or_nm {i : Instr} {s : State} {x : Fault} (hx : x = .ud ∨ x = .nm)
    (h : exec i s = .fault x) : enableFault s.params i.needs i.vectorRegs = some x := by
  obtain ⟨-, he⟩ | ⟨-, hgp | ⟨a, n, hmem⟩⟩ := exec_fault h
  · exact he
  · subst hgp; simp at hx
  · subst hmem; simp at hx

theorem enableFault_of_undefined {p : Params} {w : Needs} {regs : List (BitVec 5)} (h : udCause p w regs = true) :
    enableFault p w regs = some .ud := by
  simp [enableFault, h]

theorem enableFault_of_switched {p : Params} {w : Needs} {regs : List (BitVec 5)} (h : udCause p w regs = false)
    (hts : p.tsSet = true) : enableFault p w regs = some .nm := by
  simp [enableFault, h, hts]

theorem enableFault_ne_of_defined {p : Params} {w : Needs} {regs : List (BitVec 5)} (h : udCause p w regs = false)
    (hts : p.tsSet = false) : enableFault p w regs ≠ some .ud ∧ enableFault p w regs ≠ some .nm := by
  unfold enableFault
  cases p.x87Pending && w.cls == .mmx <;> simp [h, hts]

/-- Where the features are there and the register numbers below NVR, #UD is left to the class (60_exceptions.md rule R152). -/
theorem udCause_eq_not_enabled {p : Params} {w : Needs} {regs : List (BitVec 5)}
    (hfeat : ∀ f ∈ w.features, p.feat.has f = true) (hregs : ∀ r ∈ regs, r.toNat < p.nvr) :
    udCause p w regs = !p.os.enabled w.cls := by
  have hf : hasFeatures p w = true := List.all_eq_true.2 hfeat
  have hr : regs.any (fun r => decide (p.nvr ≤ r.toNat)) = false := by
    simpa using hregs
  simp [udCause, hf, hr]

end Sys2Proof.Machine

namespace Sys2Proof.Claims

open Sys2Proof.Machine

theorem extractLsb'_eq_allOnes {w : Nat} (x : BitVec w) (start len : Nat) :
    x.extractLsb' start len = BitVec.allOnes len ↔ ∀ j, j < len → x.getLsbD (start + j) = true := by
  constructor
  · intro h j hj
    have hbit := congrArg (fun v => v.getLsbD j) h
    simpa [hj] using hbit
  · intro h
    refine BitVec.eq_of_getLsbD_eq fun j hj => ?_
    simp [hj, h j hj]

theorem xcr0_avx_state (x : BitVec 64) :
    (x.extractLsb' 1 2 == 3#2) = true ↔ x.getLsbD 1 = true ∧ x.getLsbD 2 = true := by
  rw [beq_iff_eq]
  refine (extractLsb'_eq_allOnes x 1 2).trans ⟨fun h => ⟨h 0 (by decide), h 1 (by decide)⟩, ?_⟩
  rintro ⟨h1, h2⟩ j hj
  obtain rfl | rfl : j = 0 ∨ j = 1 := by omega
  exacts [h1, h2]

theorem xcr0_avx512_state (x : BitVec 64) :
    (x.extractLsb' 5 3 == 7#3) = true ↔ x.getLsbD 5 = true ∧ x.getLsbD 6 = true ∧ x.getLsbD 7 = true := by
  rw [beq_iff_eq]
  refine (extractLsb'_eq_allOnes x 5 3).trans
    ⟨fun h => ⟨h 0 (by decide), h 1 (by decide), h 2 (by decide)⟩, ?_⟩
  rintro ⟨h5, h6, h7⟩ j hj
  obtain rfl | rfl | rfl : j = 0 ∨ j = 1 ∨ j = 2 := by omega
  exacts [h5, h6, h7]

/-- `OSENABLED` as the control registers determine it is rule R19's table. -/
theorem withControl_enabled_iff (p : Params) (cr0 cr4 xcr0 : BitVec 64) (c : OsClass) :
    (withControl p cr0 cr4 xcr0).os.enabled c = true ↔ classOn cr0 cr4 xcr0 c := by
  cases c with
  | mmx => simp [withControl, OsEnabled.enabled, classOn]
  | sse => simp [withControl, OsEnabled.enabled, classOn]
  | avx =>
    simp only [withControl, OsEnabled.enabled, classOn, Bool.and_eq_true, xcr0_avx_state]
  | avx512 =>
    simp only [withControl, OsEnabled.enabled, classOn, Bool.and_eq_true, xcr0_avx_state, xcr0_avx512_state, and_assoc]

/-- Settles O38: with features and register numbers in order, #UD is the class condition and #NM is CR0.TS after it. -/
theorem controlRegistersGateEachClass : Obligations.ControlRegistersGateEachClass := by
  intro i s cr0 cr4 xcr0 hmode hfeat hregs
  have hud : udCause (withControl s.params cr0 cr4 xcr0) i.needs i.vectorRegs =
      !(withControl s.params cr0 cr4 xcr0).os.enabled i.osClass := udCause_eq_not_enabled hfeat hregs
  have hon := withControl_enabled_iff s.params cr0 cr4 xcr0 i.osClass
  refine ⟨fun hoff => ?_, fun hcls hts => ?_, fun hcls hts => ?_⟩
  · have hdisabled : (withControl s.params cr0 cr4 xcr0).os.enabled i.osClass = false :=
      Bool.eq_false_iff.2 (mt hon.1 hoff)
    exact exec_of_enableFault hmode (enableFault_of_undefined (by simp [hud, hdisabled]))
  · exact exec_of_enableFault hmode (enableFault_of_switched (by simp [hud, hon.2 hcls]) hts)
  · obtain ⟨hnoUd, hnoNm⟩ := enableFault_ne_of_defined (p := withControl s.params cr0 cr4 xcr0) (w := i.needs)
      (regs := i.vectorRegs) (by simp [hud, hon.2 hcls]) hts
    exact ⟨fun h => hnoUd (enableFault_of_exec_ud_or_nm (.inl rfl) h),
      fun h => hnoNm (enableFault_of_exec_ud_or_nm (.inr rfl) h)⟩

end Sys2Proof.Claims
end

section
/-! PROOFS. Noninterference: a change of the state outside what an instruction reads is carried along to the next state. -/

namespace Sys2Proof.Machine

/-! ### What the operands read -/

/-- The fields of the state from which values are taken: the vector and MMX registers, memory, the configuration. -/
structure SameData (s t : State) : Prop where
  vr : t.vr = s.vr
  mm : t.mm = s.mm
  mem : t.mem = s.mem
  params : t.params = s.params

theorem SameData.readVr {s t : State} (h : SameData s t) (r : BitVec 5) : t.readVr r = s.readVr r := by
  simp [State.readVr, h.vr]

theorem SameData.view {s t : State} (h : SameData s t) (vl : Nat) (r : BitVec 5) : t.view vl r = s.view vl r := by
  simp [State.view, h.readVr]

theorem SameData.readMm {s t : State} (h : SameData s t) (r : BitVec 3) : t.readMm r = s.readMm r := by
  simp [State.readMm, h.mm]

theorem SameData.readLE {s t : State} (h : SameData s t) (a : Addr) (n : Nat) : t.readLE a n = s.readLE a n := by
  induction n generalizing a with
  | zero => rfl
  | succ n ih => simp [State.readLE, State.byteAt, h.mem, ih]

theorem SameData.memRead {s t : State} (h : SameData s t) (w : Nat) (a : Addr) : t.memRead w a = s.memRead w a := by
  simp [State.memRead, h.readLE]

theorem SameData.load {s t : State} (h : SameData s t) (w : Nat) (a : Addr) : load w t a = load w s a := by
  simp [Machine.load, h.params, h.memRead]

/-- The address of a memory operand is the same in two states, whatever the length of the instruction. -/
def SameAddress (s t : State) (a : Option Access) : Prop :=
  ∀ acc, a = some acc → ∀ len, t.ea len acc.scale acc.mem = s.ea len acc.scale acc.mem

/-- Two states select the same of the first `lanes` lanes under a mask. -/
def SameSelection (s t : State) (m : Mask) (lanes : Nat) : Prop := ∀ j, j < lanes → t.selected m j = s.selected m j

theorem SameData.countMm {s t : State} (h : SameData s t) {cnt : RegMem 3} (ha : SameAddress s t (cnt.access 8 1))
    (len : Nat) : t.countMm len cnt = s.countMm len cnt := by
  cases cnt with
  | reg r => simp [State.countMm, h.readMm]
  | mem m =>
    have hea : t.ea len 1 m = s.ea len 1 m := ha _ rfl len
    simp only [State.countMm, hea, h.params, h.load]

theorem SameData.countXmm {s t : State} (h : SameData s t) {scale : Nat} {cnt : RegMem 5}
    (ha : SameAddress s t (cnt.access 16 scale)) (al : Bool) (len : Nat) :
    t.countXmm al len scale cnt = s.countXmm al len scale cnt := by
  cases cnt with
  | reg r => simp [State.countXmm, h.view]
  | mem m =>
    have hea : t.ea len scale m = s.ea len scale m := ha _ rfl len
    simp only [State.countXmm, hea, h.load]

theorem access_wideRm (bytes scale : Nat) (c : RegMem 4) : (wideRm c).access bytes scale = c.access bytes scale := by
  cases c <;> rfl

theorem SameData.sourceFullMem {s t : State} (h : SameData s t) {vl : Nat} {src : RegMem 5}
    (ha : SameAddress s t (src.access (vl / 8) (vl / 8))) (len : Nat) :
    t.sourceFullMem vl len src = s.sourceFullMem vl len src := by
  cases src with
  | reg r => simp [State.sourceFullMem, h.view]
  | mem m =>
    have hea : t.ea len (vl / 8) m = s.ea len (vl / 8) m := ha _ rfl len
    simp only [State.sourceFullMem, hea, h.load]

theorem SameData.lanesAccessible {s t : State} (h : SameData s t) {m : Mask} (n : Nat) (a : Addr) {k : Nat}
    (hsel : SameSelection s t m k) : lanesAccessible t n m a k = lanesAccessible s n m a k := by
  induction k with
  | zero => rfl
  | succ k ih =>
    simp only [Machine.lanesAccessible, hsel k k.lt_succ_self, h.params, ih fun j hj => hsel j (by omega)]

theorem SameSelection.anySelected {s t : State} {m : Mask} {k : Nat} (hsel : SameSelection s t m k) :
    anySelected t m k = anySelected s m k := by
  induction k with
  | zero => rfl
  | succ k ih => simp only [Machine.anySelected, hsel k k.lt_succ_self, ih fun j hj => hsel j (by omega)]

theorem SameData.fullAccess {s t : State} (h : SameData s t) {n vl : Nat} {m : Mask} (hsel : SameSelection s t m (vl / n))
    (a : Addr) : fullAccess t n vl m a = fullAccess s n vl m a := by
  simp only [Machine.fullAccess, h.params, h.lanesAccessible n a hsel]

theorem SameData.bcstAccess {s t : State} (h : SameData s t) {n vl : Nat} {m : Mask} (hsel : SameSelection s t m (vl / n))
    (a : Addr) : bcstAccess t n vl m a = bcstAccess s n vl m a := by
  simp only [Machine.bcstAccess, h.params, hsel.anySelected]

theorem SameData.sourceFull {s t : State} (h : SameData s t) {n vl : Nat} {m : Mask} {src : Source}
    (ha : SameAddress s t (src.access (vl / 8) (n / 8))) (hsel : SameSelection s t m (vl / n)) (len : Nat) :
    t.sourceFull n vl len m src = s.sourceFull n vl len m src := by
  cases src with
  | reg r => simp [State.sourceFull, h.view]
  | mem a =>
    have hea : t.ea len (vl / 8) a = s.ea len (vl / 8) a := ha _ rfl len
    simp only [State.sourceFull, hea, h.fullAccess hsel, h.memRead]
  | bcst a =>
    have hea : t.ea len (n / 8) a = s.ea len (n / 8) a := ha _ rfl len
    simp only [State.sourceFull, hea, h.bcstAccess hsel, h.memRead]

theorem lanesNat_congr {n k : Nat} {f g : Nat → BitVec n} (h : ∀ j, j < k → f j = g j) :
    lanesNat n k f = lanesNat n k g := by
  induction k generalizing f g with
  | zero => rfl
  | succ k ih => simp only [lanesNat, h 0 k.succ_pos, ih fun j hj => h (j + 1) (by omega)]

theorem SameSelection.masked {s t : State} {n vl : Nat} {m : Mask} (hsel : SameSelection s t m (vl / n))
    (res old : BitVec vl) : t.masked n m res old = s.masked n m res old := by
  unfold State.masked ofLanes
  rw [lanesNat_congr fun j hj => by rw [hsel j hj]]

/-! ### A change carried along -/

/-- A change of the state that leaves the data alone and commutes with what an instruction writes. -/
structure CarriedAlong (f : State → State) : Prop where
  data : ∀ s, SameData s (f s)
  vr : ∀ s d v n, ((f s).setVr d v).advance n = f ((s.setVr d v).advance n)
  mm : ∀ s d v n, ((f s).setMm d v).advance n = f ((s.setMm d v).advance n)

theorem CarriedAlong.finishVr {f : State → State} (hf : CarriedAlong f) (s : State) (d : BitVec 5) (v : VrWord)
    (len : Nat) : finishVr (f s) d v len = mapNext f (finishVr s d v len) :=
  congrArg Host.Outcome.next (hf.vr s d v len)

theorem CarriedAlong.finishMm {f : State → State} (hf : CarriedAlong f) (s : State) (d : BitVec 3) (v : BitVec 64)
    (len : Nat) : finishMm (f s) d v len = mapNext f (finishMm s d v len) :=
  congrArg Host.Outcome.next (hf.mm s d v len)

theorem mapNext_enter {f : State → State} {s t : State} (hp : t.params = s.params) (w : Needs) (regs : List (BitVec 5))
    (body : Result) : mapNext f (enter s w regs body) = enter t w regs (mapNext f body) := by
  unfold enter
  rw [hp]
  split
  · rfl
  · split
    · rfl
    · split <;> rfl

theorem mapNext_withOperand {α : Type} {f : State → State} (o : Except Fault α) (body : α → Result) :
    mapNext f (withOperand o body) = withOperand o (fun v => mapNext f (body v)) := by
  cases o <;> rfl

/-- Where a change carried along leaves the address of the memory operand and the selected lanes as they are, the instruction
behaves as before and the change stands in the next state. -/
theorem exec_carried {f : State → State} (hf : CarriedAlong f) {i : Instr} {s : State}
    (ha : SameAddress s (f s) i.access)
    (hsel : ∀ m lanes, i.mask = some (m, lanes) → SameSelection s (f s) m lanes) :
    exec i (f s) = mapNext f (exec i s) := by
  have hd := hf.data s
  cases runsAs i with
  | mmxByRm n rex d cnt hexec hcol =>
    obtain ⟨-, -, -, -, hacc, -⟩ := Columns.mk.inj hcol
    rw [hexec, mmxByRm, mmxByRm, mapNext_enter hd.params, mapNext_withOperand]
    simp only [hd.countMm (hacc ▸ ha), hd.readMm, hf.finishMm]
  | mmxByImm n rex d imm hexec hcol =>
    rw [hexec, mmxByImm, mmxByImm, mapNext_enter hd.params]
    simp only [hd.readMm, hf.finishMm]
  | sseByRm n rex d cnt hexec hcol =>
    obtain ⟨-, -, -, -, hacc, -⟩ := Columns.mk.inj hcol
    rw [← access_wideRm] at hacc
    rw [hexec, sseByRm, sseByRm, mapNext_enter hd.params, mapNext_withOperand]
    simp only [hd.countXmm (hacc ▸ ha), hd.readVr, hd.view, hf.finishVr]
  | sseByImm n rex d imm hexec hcol =>
    rw [hexec, sseByImm, sseByImm, mapNext_enter hd.params]
    simp only [hd.readVr, hd.view, hf.finishVr]
  | vexByRm n vl form d src cnt hexec hcol =>
    obtain ⟨-, -, -, -, hacc, -⟩ := Columns.mk.inj hcol
    rw [← access_wideRm] at hacc
    rw [hexec, vexByRm, vexByRm, mapNext_enter hd.params, mapNext_withOperand]
    simp only [hd.countXmm (hacc ▸ ha), hd.view, hf.finishVr]
  | vexByImm n vl form d src imm hexec hcol =>
    rw [hexec, vexByImm, vexByImm, mapNext_enter hd.params]
    simp only [hd.view, hf.finishVr]
  | evexByRm lf n vl m d src cnt hexec hcol =>
    obtain ⟨-, -, -, -, hacc, hmask⟩ := Columns.mk.inj hcol
    rw [hexec, evexByRm, evexByRm, mapNext_enter hd.params, mapNext_withOperand]
    simp only [hd.countXmm (hacc ▸ ha), hd.view, (hsel m _ hmask).masked, hf.finishVr]
  | evexFullMem lf n vl m d src imm hexec hcol =>
    obtain ⟨-, -, -, -, hacc, hmask⟩ := Columns.mk.inj hcol
    rw [hexec, evexFullMem, evexFullMem, mapNext_enter hd.params, mapNext_withOperand]
    simp only [hd.sourceFullMem (hacc ▸ ha), hd.view, (hsel m _ hmask).masked, hf.finishVr]
  | evexFull lf n vl m d src imm hexec hcol =>
    obtain ⟨-, -, -, -, hacc, hmask⟩ := Columns.mk.inj hcol
    rw [hexec, evexFull, evexFull, mapNext_enter hd.params, mapNext_withOperand]
    simp only [hd.sourceFull (hacc ▸ ha) (hsel m _ hmask), hd.view, (hsel m _ hmask).masked, hf.finishVr]

/-- Replacing the general registers is carried along. -/
theorem carriedAlong_gpr (g : Vector (BitVec 64) 16) : CarriedAlong fun t => { t with gpr := g } :=
  ⟨fun _ => ⟨rfl, rfl, rfl, rfl⟩, fun _ _ _ _ => rfl, fun _ _ _ _ => rfl⟩

/-- Replacing the opmask registers is carried along. -/
theorem carriedAlong_k (k' : Vector (BitVec 64) 8) : CarriedAlong fun t => { t with k := k' } :=
  ⟨fun _ => ⟨rfl, rfl, rfl, rfl⟩, fun _ _ _ _ => rfl, fun _ _ _ _ => rfl⟩

/-- With other opmask registers the same lanes are selected, if the low bits of the selected one agree; `K[0]` selects every
lane whatever it holds (40_shift_core.md rule R94). -/
theorem sameSelection_k {s : State} {k' : Vector (BitVec 64) 8} {m : Mask} {lanes : Nat}
    (h : m.k ≠ 0#3 → ∀ j, j < lanes → (k'.get m.k.toFin).getLsbD j = (s.readK m.k).getLsbD j) :
    SameSelection s { s with k := k' } m lanes := by
  intro j hj
  by_cases hk : m.k = 0#3
  · simp [State.selected, hk]
  · have hread : ({ s with k := k' } : State).readK m.k = k'.get m.k.toFin := rfl
    simp only [State.selected, hread, h hk j hj]

end Sys2Proof.Machine

namespace Sys2Proof.Claims

open Sys2Proof.Machine

/-- Settles O25: without a memory operand there is no address for the general registers to enter. -/
theorem generalRegistersOnlyAddress : Obligations.GeneralRegistersOnlyAddress := by
  intro i s g hnone
  refine exec_carried (carriedAlong_gpr g) (fun acc hacc => ?_) (fun m lanes _ j _ => rfl)
  rw [hnone] at hacc
  cases hacc

/-- Settles O26: the opmask registers are read through the selected lanes only. -/
theorem onlyLowMaskBitsMatter : Obligations.OnlyLowMaskBitsMatter := by
  intro i s k' hbits
  have hea : SameAddress s { s with k := k' } i.access := fun acc _ len => by cases acc.mem <;> rfl
  exact exec_carried (carriedAlong_k k') hea fun m lanes hmask => sameSelection_k (hbits m lanes hmask)

end Sys2Proof.Claims
end

section
/-! PROOFS. What no instruction writes, over one step and over a run. -/

namespace Sys2Proof.Machine

/-- Two states agree outside the registers an instruction can write: memory, opmask and general registers, RFLAGS, MXCSR and the
configuration. -/
structure SameBackground (s t : State) : Prop where
  mem : t.mem = s.mem
  k : t.k = s.k
  gpr : t.gpr = s.gpr
  rflags : t.rflags = s.rflags
  mxcsr : t.mxcsr = s.mxcsr
  params : t.params = s.params

theorem SameBackground.refl (s : State) : SameBackground s s := ⟨rfl, rfl, rfl, rfl, rfl, rfl⟩

theorem SameBackground.trans {s t u : State} (h : SameBackground s t) (h' : SameBackground t u) : SameBackground s u where
  mem := h'.mem.trans h.mem
  k := h'.k.trans h.k
  gpr := h'.gpr.trans h.gpr
  rflags := h'.rflags.trans h.rflags
  mxcsr := h'.mxcsr.trans h.mxcsr
  params := h'.params.trans h.params

/-- A completed instruction has written an MMX or a vector register and `rip`, none of which is background. -/
theorem exec_sameBackground {i : Instr} {s t : State} (h : exec i s = .next t) : SameBackground s t := by
  obtain ⟨-, hdone⟩ := exec_next h
  cases hdone with
  | mm d v hdest hreg heq => subst heq; exact ⟨rfl, rfl, rfl, rfl, rfl, rfl⟩
  | vr d v hdest hreg hupper heq => subst heq; exact ⟨rfl, rfl, rfl, rfl, rfl, rfl⟩

theorem step_sameBackground {s t : State} (h : step s = .next t) : SameBackground s t := by
  obtain ⟨i, hexec⟩ := step_next h
  exact exec_sameBackground hexec

/-- A run of one step more that ends in a next state goes through the next state of its first step. -/
theorem run_succ_next {n : Nat} {s t : State} (h : core.run (n + 1) s = .next t) :
    ∃ u, step s = .next u ∧ core.run n u = .next t := by
  have hstep : core.step s = step s := rfl
  simp only [Host.Core.run, hstep] at h
  split at h
  · exact ⟨_, ‹_›, h⟩
  · cases h
  · cases h

/-- What every step keeps holds at the end of a run. -/
theorem run_keeps {P : State → Prop} (hkeep : ∀ s t, P s → step s = .next t → P t) {n : Nat} {s t : State} (hs : P s)
    (h : core.run n s = .next t) : P t := by
  induction n generalizing s with
  | zero => cases h; exact hs
  | succ n ih =>
    obtain ⟨u, hstep, hrun⟩ := run_succ_next h
    exact ih (hkeep s u hs hstep) hrun

end Sys2Proof.Machine

namespace Sys2Proof.Claims

open Sys2Proof.Machine

/-- Settles O57: no step writes the background, so a run, step by step, does not. -/
theorem runsLeaveMemoryAndMasksAlone : Obligations.RunsLeaveMemoryAndMasksAlone := by
  intro n s t hrun
  obtain ⟨hmem, hk, hgpr, hrflags, hmxcsr, hparams⟩ :=
    run_keeps (P := SameBackground s) (fun u v hu hstep => hu.trans (step_sameBackground hstep)) (.refl s) hrun
  exact ⟨hmem, hk, hgpr, hrflags, hmxcsr, hparams⟩

end Sys2Proof.Claims
end

section
/-! PROOFS. Memory byte by byte: what a write of several bytes does to each, and when an access to several is allowed. -/

namespace Sys2Proof.Machine

/-! ### Addresses near one another -/

theorem add_one_add_ofNat (a : Addr) (i : Nat) : a + 1#64 + BitVec.ofNat 64 i = a + BitVec.ofNat 64 (i + 1) := by
  rw [BitVec.add_assoc, Nat.add_comm i 1, BitVec.ofNat_add]

/-- An address is met again only after 2^64 bytes. -/
theorem ne_add_ofNat (a : Addr) {i : Nat} (hpos : 0 < i) (hlt : i < 2 ^ 64) : a ≠ a + BitVec.ofNat 64 i := by
  intro h
  have hzero : BitVec.ofNat 64 i = 0#64 := by simpa using h
  have htoNat := congrArg BitVec.toNat hzero
  simp only [BitVec.toNat_ofNat, Nat.mod_eq_of_lt hlt] at htoNat
  omega

/-! ### Writing several bytes -/

/-- Writing one byte in memory. -/
def State.setByte (s : State) (a : Addr) (b : Byte) : State := { s with mem := Memory.write s.mem a.toNat b }

theorem writeBytes_cons (s : State) (a : Addr) (b : Byte) (bs : List Byte) :
    s.writeBytes a (b :: bs) = (s.setByte a b).writeBytes (a + 1#64) bs := rfl

theorem wf_setByte {s : State} (a : Addr) (b : Byte) (h : Memory.wf s.mem = true) :
    Memory.wf (s.setByte a b).mem = true := wf_write s.mem a b h

theorem byteAt_setByte_same {s : State} (a : Addr) (b : Byte) (h : Memory.wf s.mem = true) :
    (s.setByte a b).byteAt a = b := read_write_same s.mem 0 a.toNat b h

theorem byteAt_setByte_ne (s : State) {a c : Addr} (b : Byte) (h : c ≠ a) : (s.setByte a b).byteAt c = s.byteAt c :=
  read_write_ne s.mem b fun e => h (BitVec.eq_of_toNat_eq e)

/-- Nothing but memory changes. -/
theorem writeBytes_frame (s : State) (a : Addr) (bs : List Byte) : { s.writeBytes a bs with mem := s.mem } = s := by
  induction bs generalizing s a with
  | nil => rfl
  | cons b bs ih =>
    have hrest := ih (s.setByte a b) (a + 1#64)
    exact congrArg (fun t => { t with mem := s.mem }) hrest

/-- A byte that is not among those written is as before. -/
theorem byteAt_writeBytes_of_ne (s : State) {a c : Addr} (bs : List Byte)
    (h : ∀ i, i < bs.length → c ≠ a + BitVec.ofNat 64 i) : (s.writeBytes a bs).byteAt c = s.byteAt c := by
  induction bs generalizing s a with
  | nil => rfl
  | cons b bs ih =>
    have hfirst : c ≠ a := by simpa using h 0 (by simp)
    have hrest : ∀ i, i < bs.length → c ≠ a + 1#64 + BitVec.ofNat 64 i := fun i hi => by
      rw [add_one_add_ofNat]
      exact h (i + 1) (Nat.succ_lt_succ hi)
    rw [writeBytes_cons, ih _ hrest, byteAt_setByte_ne s b hfirst]

/-- The byte at offset `i` is the `i`-th written: the writes behind it do not come round to it again. -/
theorem byteAt_writeBytes (s : State) (a : Addr) (bs : List Byte) (hwf : Memory.wf s.mem = true)
    (hlen : bs.length ≤ 2 ^ 64) (i : Nat) (hi : i < bs.length) :
    (s.writeBytes a bs).byteAt (a + BitVec.ofNat 64 i) = bs[i] := by
  induction bs generalizing s a i with
  | nil => cases hi
  | cons b bs ih =>
    simp only [List.length_cons] at hlen hi
    rw [writeBytes_cons]
    cases i with
    | zero =>
      have hapart : ∀ j, j < bs.length → a ≠ a + 1#64 + BitVec.ofNat 64 j := fun j hj => by
        rw [add_one_add_ofNat]
        exact ne_add_ofNat a j.succ_pos (by omega)
      simpa [byteAt_writeBytes_of_ne _ bs hapart] using byteAt_setByte_same a b hwf
    | succ i =>
      have hrest := ih (s.setByte a b) (a + 1#64) (wf_setByte a b hwf) (by omega) i (by omega)
      rwa [add_one_add_ofNat] at hrest

@[simp] theorem bytesOf_length (v n : Nat) : (bytesOf v n).length = n := by
  induction n generalizing v with
  | zero => rfl
  | succ n ih => simp [bytesOf, ih]

theorem getElem_bytesOf (v n i : Nat) (h : i < (bytesOf v n).length) :
    (bytesOf v n)[i] = BitVec.ofNat 8 (v >>> (8 * i)) := by
  induction n generalizing v i with
  | zero => cases h
  | succ n ih =>
    cases i with
    | zero => rfl
    | succ i =>
      have hshift : v >>> (8 * (i + 1)) = v >>> 8 >>> (8 * i) := by
        rw [← Nat.shiftRight_add, Nat.mul_add, Nat.add_comm]
      rw [hshift]
      exact ih (v >>> 8) i _

/-! ### Accessibility -/

/-- An access is allowed when each of its bytes is (60_exceptions.md rule R154). -/
theorem accessible_iff {p : Params} {kind : AccessKind} {a : Addr} {n : Nat} :
    accessible p kind a n = true ↔ ∀ k, k < n → accessibleByte p kind (a + BitVec.ofNat 64 k) = true := by
  induction n generalizing a with
  | zero => simp [accessible]
  | succ n ih =>
    simp only [accessible, Bool.and_eq_true, ih, add_one_add_ofNat]
    constructor
    · rintro ⟨hfirst, hrest⟩ k hk
      cases k with
      | zero => simpa using hfirst
      | succ k => exact hrest k (by omega)
    · intro h
      exact ⟨by simpa using h 0 (by omega), fun k hk => h (k + 1) (by omega)⟩

/-- A canonical address, as a signed number, fits the linear-address width (20_memory.md rule R39). -/
theorem canonical_iff (w : LinearWidth) (a : Addr) :
    canonical w a = true ↔
      (w = .la48 → -(2 ^ 47 : Int) ≤ a.toInt ∧ a.toInt < 2 ^ 47) ∧
      (w = .la57 → -(2 ^ 56 : Int) ≤ a.toInt ∧ a.toInt < 2 ^ 56) := by
  have hlt := a.isLt
  cases w with
  | la48 =>
    simp only [canonical, Bool.or_eq_true, beq_iff_eq, BitVec.toNat_eq, BitVec.extractLsb'_toNat,
      Nat.shiftRight_eq_div_pow, BitVec.toNat_allOnes, BitVec.toNat_ofNat, BitVec.toInt_eq_toNat_cond, reduceCtorEq,
      forall_const, false_implies, and_true]
    omega
  | la57 =>
    simp only [canonical, Bool.or_eq_true, beq_iff_eq, BitVec.toNat_eq, BitVec.extractLsb'_toNat,
      Nat.shiftRight_eq_div_pow, BitVec.toNat_allOnes, BitVec.toNat_ofNat, BitVec.toInt_eq_toNat_cond, reduceCtorEq,
      forall_const, false_implies, true_and]
    omega

/-- A region that does not deny an access: the address lies outside it or its flag of that kind is off. -/
theorem regionDenies_eq_false_iff {r : Region} {kind : AccessKind} {a : Nat} :
    regionDenies r kind a = false ↔ (r.base ≤ a → a < r.base + r.size →
      (kind = .data → r.noData = false) ∧ (kind = .fetch → r.noFetch = false)) := by
  cases kind <;> simp [regionDenies]

theorem accessibleByte_iff {p : Params} {kind : AccessKind} {a : Addr} :
    accessibleByte p kind a = true ↔
      canonical p.linear a = true ∧ ∀ r ∈ p.denied, regionDenies r kind a.toNat = false := by
  simp [accessibleByte]

/-- A stretch of an accessible operand is accessible. -/
theorem accessible_stretch {p : Params} {kind : AccessKind} {a : Addr} {n off len : Nat}
    (h : accessible p kind a n = true) (hin : off + len ≤ n) :
    accessible p kind (a + BitVec.ofNat 64 off) len = true := by
  rw [accessible_iff] at h ⊢
  intro k hk
  rw [BitVec.add_assoc, ← BitVec.ofNat_add]
  exact h (off + k) (by omega)

end Sys2Proof.Machine

namespace Sys2Proof.Claims

open Sys2Proof.Machine

/-- Settles O19: a write sets its bytes one after the other and none twice; instructions write registers only. -/
theorem writesSetTheirBytes : Obligations.WritesSetTheirBytes := by
  refine ⟨fun s a n v hwf hn => ?_, fun i s t hexec => (exec_sameBackground hexec).mem⟩
  refine ⟨wf_memWrite s a n v hwf, writeBytes_frame s a _, fun i hi => ?_, fun b hb => ?_⟩
  · have hlen : i < (bytesOf v.toNat n).length := by rwa [bytesOf_length]
    calc (s.memWrite a n v).byteAt (a + BitVec.ofNat 64 i)
        = (bytesOf v.toNat n)[i] := byteAt_writeBytes s a _ hwf (by rwa [bytesOf_length]) i hlen
      _ = v.extractLsb' (8 * i) 8 := getElem_bytesOf _ _ _ hlen
  · exact byteAt_writeBytes_of_ne s _ fun i hi => hb i (by rwa [bytesOf_length] at hi)

/-- Settles O21: an access is its bytes' accesses, and a byte's is the width of its address and the regions around it. -/
theorem accessIsCheckedBytewise : Obligations.AccessIsCheckedBytewise := by
  intro p kind a n
  simp only [accessible_iff, accessibleByte_iff, canonical_iff, regionDenies_eq_false_iff, and_assoc]

end Sys2Proof.Claims
end

section
/-! PROOFS. The faults of memory operands: for every row, when its one memory operand faults and with what. -/

namespace Sys2Proof.Machine

/-- The bytes of an instruction are as many as the length its meaning takes. -/
theorem encode_length (i : Instr) : (encode i).length = i.len := by
  cases i with
  | psrawMmRm | psrawXmmRm | psradMmRm | psradXmmRm => exact Laws.encodeLegacyRm_length ..
  | psrawMmImm | psrawXmmImm | psradMmImm | psradXmmImm => exact Laws.encodeLegacyImm_length ..
  | vpsrawXmmRm | vpsradXmmRm | vpsrawYmmRm | vpsradYmmRm => exact Laws.encodeVexRm_length ..
  | vpsrawXmmImm | vpsradXmmImm | vpsrawYmmImm | vpsradYmmImm => exact Laws.encodeVexImm_length ..
  | evpsrawXmmRm | evpsrawYmmRm | evpsrawZmmRm | evpsradXmmRm | evpsradYmmRm | evpsradZmmRm | evpsraqXmmRm
  | evpsraqYmmRm | evpsraqZmmRm => exact Laws.encodeEvexRm_length ..
  | evpsrawXmmImm | evpsrawYmmImm | evpsrawZmmImm =>
    rw [encode, Laws.encodeEvexImm_length, Laws.regMem_tail_length, Instr.len]
  | evpsradXmmImm | evpsradYmmImm | evpsradZmmImm | evpsraqXmmImm | evpsraqYmmImm | evpsraqZmmImm =>
    rw [encode, Laws.encodeEvexImm_length, Laws.source_tail_length, Instr.len]

theorem operandAddress_eq (s : State) (i : Instr) (acc : Access) :
    operandAddress s i acc = s.ea i.len acc.scale acc.mem := by
  rw [operandAddress, encode_length]

/-! ### Being ready is passing the enable checks -/

theorem undefined_iff {p : Params} {i : Instr} : Undefined p i ↔ udCause p i.needs i.vectorRegs = true := by
  simp [Undefined, udCause, hasFeatures, Instr.needs, or_assoc]

theorem viewsPresent_iff {p : Params} {i : Instr} : ViewsPresent p i ↔ viewsExist p i.needs = true := by
  rw [viewsExist_iff]
  exact ⟨fun h => ⟨h.width, h.maskWidth, h.mm, h.mask⟩, fun ⟨hw, hm, hmm, hk⟩ => ⟨hw, hm, hmm, hk⟩⟩

theorem ready_iff_passes {s : State} {i : Instr} : Ready s i ↔ Passes s i.needs i.vectorRegs := by
  have hmf : (i.osClass = .mmx → s.params.x87Pending = false) ↔
      (s.params.x87Pending && i.needs.cls == .mmx) = false := by
    cases s.params.x87Pending <;> simp [Instr.needs]
  have hud : ¬ Undefined s.params i ↔ udCause s.params i.needs i.vectorRegs = false := by simp [undefined_iff]
  exact ⟨fun h => ⟨h.mode, hud.1 h.defined, h.notSwitched, hmf.1 h.noX87, viewsPresent_iff.1 h.views⟩,
    fun h => ⟨h.mode, hud.2 h.ud, h.nm, hmf.2 h.mf, viewsPresent_iff.2 h.views⟩⟩

theorem not_operandFault_of_enableFault {p : Params} {w : Needs} {regs : List (BitVec 5)} {x : Fault}
    (h : enableFault p w regs = some x) : ¬ OperandFault x := by
  unfold enableFault at h
  split at h
  · cases h; simp [OperandFault]
  · split at h
    · cases h; simp [OperandFault]
    · split at h
      · cases h; simp [OperandFault]
      · cases h

/-- The fault of an operand is raised with all enable checks passed. -/
theorem ready_of_operandFault {i : Instr} {s : State} {x : Fault} (hx : OperandFault x) (h : exec i s = .fault x) :
    Ready s i := by
  obtain ⟨-, he⟩ | ⟨hpass, -⟩ := exec_fault h
  · exact absurd hx (not_operandFault_of_enableFault he)
  · exact ready_iff_passes.2 hpass

/-- A ready instruction is the body of its meaning: neither a refusal nor an enable fault is left to answer. -/
theorem exec_of_ready {i : Instr} {s : State} {w : Needs} {regs : List (BitVec 5)} {body : Result} (hr : Ready s i)
    (h : exec i s = enter s w regs body) : exec i s = body := by
  obtain ⟨b, hb, hbody⟩ := exec_eq_enter i s
  rw [enter_of_passes (ready_iff_passes.1 hr)] at hb
  cases hres : exec i s with
  | next t => exact (enter_next (h ▸ hres)).2.symm
  | fault x =>
    obtain ⟨-, he⟩ | ⟨-, hx⟩ := enter_fault (h ▸ hres)
    · exact absurd (hbody.fault x (hb ▸ hres)) (not_operandFault_of_enableFault he)
    · exact hx.symm
  | refused r => exact absurd (hb ▸ hres) (hbody.notRefused r)

/-! ### What the checks on an operand raise -/

/-- What the checks on the memory operand `acc` of row `i` can raise: rows 2 and 6 check the alignment first, rows 1 and 5 with
`AC_ENABLED` too (20_memory.md rule R36); every row checks the accessibility (60_exceptions.md rule R154). -/
inductive OperandRaises (s : State) (i : Instr) (acc : Access) : Fault → Prop
  | misaligned (hrow : i.alignedRow = true) (hmis : (operandAddress s i acc).toNat % 16 ≠ 0) :
    OperandRaises s i acc .gp0
  | alignmentCheck (hcls : i.osClass = .mmx) (hac : s.params.acEnabled = true)
    (hmis : (operandAddress s i acc).toNat % 8 ≠ 0) :
    OperandRaises s i acc (.memFault (operandAddress s i acc) acc.bytes)
  | inaccessible (hal : i.alignedRow = true → (operandAddress s i acc).toNat % 16 = 0)
    (hdenied : accessible s.params .data (operandAddress s i acc) acc.bytes = false) :
    OperandRaises s i acc (.memFault (operandAddress s i acc) acc.bytes)

/-- `o`, the operand that the meaning of row `i` reads, fails only as the checks on the row's memory operand say; and it does
fail so, where FAULT_SUPPRESSION exempts no byte of it (20_memory.md rule R47). -/
structure OperandChecked {α : Type} (s : State) (i : Instr) (o : Except Fault α) : Prop where
  sound : ∀ x, o = .error x → ∃ acc, i.access = some acc ∧ OperandRaises s i acc x
  complete : (i.fullRow = true → s.params.faultSuppression = false) →
    ∀ acc x, i.access = some acc → OperandRaises s i acc x → o = .error x

theorem OperandChecked.of_no_access {α : Type} {s : State} {i : Instr} (h : i.access = none) (v : α) :
    OperandChecked s i (.ok v) where
  sound _ e := nomatch e
  complete _ acc x hacc := by rw [h] at hacc; cases hacc

theorem OperandChecked.of_access {α : Type} {s : State} {i : Instr} {o : Except Fault α} {acc : Access}
    (hacc : i.access = some acc) (hsound : ∀ x, o = .error x → OperandRaises s i acc x)
    (hcomplete : (i.fullRow = true → s.params.faultSuppression = false) → ∀ x, OperandRaises s i acc x → o = .error x) :
    OperandChecked s i o where
  sound x e := ⟨acc, hacc, hsound x e⟩
  complete hsup acc' x hacc' := by
    cases Option.some.inj (hacc.symm.trans hacc')
    exact hcomplete hsup x

/-- A row that checks no alignment raises a memory fault on an operand not accessible whole, and nothing else. -/
theorem operandRaises_iff_inaccessible {s : State} {i : Instr} {acc : Access} {x : Fault} (hrow : i.alignedRow = false)
    (hcls : i.osClass ≠ .mmx) :
    OperandRaises s i acc x ↔ accessible s.params .data (operandAddress s i acc) acc.bytes = false ∧
      x = .memFault (operandAddress s i acc) acc.bytes := by
  constructor
  · rintro (⟨hrow', -⟩ | ⟨hmmx, -, -⟩ | ⟨-, hdenied⟩)
    · rw [hrow] at hrow'; cases hrow'
    · exact absurd hmmx hcls
    · exact ⟨hdenied, rfl⟩
  · rintro ⟨hdenied, rfl⟩
    exact .inaccessible (by simp [hrow]) hdenied

/-! ### The operands of the meanings -/

theorem load_eq_error_iff {w : Nat} {s : State} {a : Addr} {x : Fault} :
    load w s a = .error x ↔ accessible s.params .data a (w / 8) = false ∧ x = .memFault a (w / 8) := by
  obtain ⟨hacc, hl⟩ | ⟨hacc, hl⟩ := load_cases w s a
  · simp [hl, hacc]
  · simp [hl, hacc, eq_comm]

theorem countMm_mem_eq_error_iff {s : State} {len : Nat} {m : Mem} {x : Fault} :
    s.countMm len (.mem m) = .error x ↔
      ((s.params.acEnabled = true ∧ (s.ea len 1 m).toNat % 8 ≠ 0) ∨
        accessible s.params .data (s.ea len 1 m) 8 = false) ∧ x = .memFault (s.ea len 1 m) 8 := by
  simp only [State.countMm]
  split
  · rename_i hmis
    simp only [Bool.and_eq_true, bne_iff_ne] at hmis
    simp [hmis, eq_comm (b := x)]
  · rename_i hal
    simp only [Bool.and_eq_true, bne_iff_ne] at hal
    obtain ⟨hacc, hl⟩ | ⟨hacc, hl⟩ := load_cases 64 s (s.ea len 1 m)
    · simp [hl, hacc, hal]
    · simp [hl, hacc, eq_comm (b := x)]

theorem countXmm_mem_eq_error_iff {s : State} {al : Bool} {len scale : Nat} {m : Mem} {x : Fault} :
    s.countXmm al len scale (.mem m) = .error x ↔
      (al = true ∧ (s.ea len scale m).toNat % 16 ≠ 0 ∧ x = .gp0) ∨
      ((al = true → (s.ea len scale m).toNat % 16 = 0) ∧
        accessible s.params .data (s.ea len scale m) 16 = false ∧ x = .memFault (s.ea len scale m) 16) := by
  simp only [State.countXmm]
  split
  · rename_i hmis
    simp only [Bool.and_eq_true, bne_iff_ne] at hmis
    simp [hmis, eq_comm (b := x)]
  · rename_i hal
    simp only [Bool.and_eq_true, bne_iff_ne, not_and, not_not] at hal
    have hmis : ¬ (al = true ∧ (s.ea len scale m).toNat % 16 ≠ 0 ∧ x = .gp0) := fun ⟨h, hmis, _⟩ => hmis (hal h)
    rw [or_iff_right hmis, and_iff_right hal]
    obtain ⟨hacc, hl⟩ | ⟨hacc, hl⟩ := load_cases 128 s (s.ea len scale m)
    · simp [hl, hacc]
    · simp [hl, hacc, eq_comm (b := x)]

theorem countMm_checked {s : State} {i : Instr} {cnt : RegMem 3} (hacc : i.access = cnt.access 8 1)
    (hcls : i.osClass = .mmx) (hrow : i.alignedRow = false) : OperandChecked s i (s.countMm i.len cnt) := by
  cases cnt with
  | reg r => exact .of_no_access hacc _
  | mem m =>
    have haddr := operandAddress_eq s i ⟨m, 8, 1⟩
    refine .of_access hacc (fun x h => ?_) (fun _ x h => countMm_mem_eq_error_iff.2 ?_)
    · obtain ⟨⟨hac, hmis⟩ | hdenied, rfl⟩ := countMm_mem_eq_error_iff.1 h
      · rw [← haddr] at hmis ⊢
        exact .alignmentCheck hcls hac hmis
      · rw [← haddr] at hdenied ⊢
        exact .inaccessible (by simp [hrow]) hdenied
    · cases h with
      | misaligned hrow' => rw [hrow] at hrow'; cases hrow'
      | alignmentCheck _ hac hmis => exact ⟨.inl ⟨hac, haddr ▸ hmis⟩, by rw [haddr]⟩
      | inaccessible _ hdenied => exact ⟨.inr (haddr ▸ hdenied), by rw [haddr]⟩

theorem countXmm_checked {s : State} {i : Instr} {al : Bool} {scale : Nat} {cnt : RegMem 5}
    (hacc : i.access = cnt.access 16 scale) (hcls : i.osClass ≠ .mmx) (hrow : i.alignedRow = al) :
    OperandChecked s i (s.countXmm al i.len scale cnt) := by
  cases cnt with
  | reg r => exact .of_no_access hacc _
  | mem m =>
    have haddr := operandAddress_eq s i ⟨m, 16, scale⟩
    refine .of_access hacc (fun x h => ?_) (fun _ x h => countXmm_mem_eq_error_iff.2 ?_)
    · obtain ⟨hal, hmis, rfl⟩ | ⟨hal, hdenied, rfl⟩ := countXmm_mem_eq_error_iff.1 h
      · exact .misaligned (hrow.trans hal) (haddr ▸ hmis)
      · rw [← haddr] at hal hdenied ⊢
        exact .inaccessible (hrow ▸ hal) hdenied
    · cases h with
      | misaligned hrow' hmis => exact .inl ⟨hrow.symm.trans hrow', haddr ▸ hmis, rfl⟩
      | alignmentCheck hmmx => exact absurd hmmx hcls
      | inaccessible hal hdenied => exact .inr ⟨hrow ▸ haddr ▸ hal, haddr ▸ hdenied, by rw [haddr]⟩

theorem sourceFullMem_checked {s : State} {i : Instr} {vl : Nat} {src : RegMem 5}
    (hacc : i.access = src.access (vl / 8) (vl / 8)) (hcls : i.osClass ≠ .mmx) (hrow : i.alignedRow = false) :
    OperandChecked s i (s.sourceFullMem vl i.len src) := by
  cases src with
  | reg r => exact .of_no_access hacc _
  | mem m =>
    have hiff : ∀ x, s.sourceFullMem vl i.len (.mem m) = .error x ↔ OperandRaises s i ⟨m, vl / 8, vl / 8⟩ x :=
      fun x => by rw [operandRaises_iff_inaccessible hrow hcls, operandAddress_eq]; exact load_eq_error_iff
    exact .of_access hacc (fun x => (hiff x).1) fun _ x => (hiff x).2

/-! ### What FAULT_SUPPRESSION exempts -/

/-- Where the whole operand is accessible, every lane of it is. -/
theorem lanesAccessible_of_accessible {s : State} {n : Nat} {m : Mask} {a : Addr} {k : Nat}
    (h : accessible s.params .data a (k * (n / 8)) = true) : lanesAccessible s n m a k = true := by
  induction k with
  | zero => rfl
  | succ k ih =>
    have hbytes : (k + 1) * (n / 8) = k * (n / 8) + n / 8 := Nat.succ_mul k (n / 8)
    have hlane := accessible_stretch (off := k * (n / 8)) (len := n / 8) h (by omega)
    have hbelow := accessible_stretch (off := 0) (len := k * (n / 8)) h (by omega)
    simp only [lanesAccessible, hlane, Bool.or_true, Bool.true_and]
    exact ih (by simpa using hbelow)

/-- The lanes of a vector lie within its bytes. -/
theorem lanes_bytes_le (n vl : Nat) : vl / n * (n / 8) ≤ vl / 8 := by
  rw [Nat.le_div_iff_mul_le (by decide), Nat.mul_assoc]
  calc vl / n * (n / 8 * 8) ≤ vl / n * n := Nat.mul_le_mul_left _ (Nat.div_mul_le_self n 8)
    _ ≤ vl := Nat.div_mul_le_self vl n

theorem fullAccess_of_accessible {s : State} {n vl : Nat} {m : Mask} {a : Addr}
    (h : accessible s.params .data a (vl / 8) = true) : fullAccess s n vl m a = true := by
  unfold fullAccess
  split
  · have hlanes := accessible_stretch (off := 0) h ((Nat.zero_add _).trans_le (lanes_bytes_le n vl))
    exact lanesAccessible_of_accessible (by simpa using hlanes)
  · exact h

theorem bcstAccess_of_accessible {s : State} {n vl : Nat} {m : Mask} {a : Addr}
    (h : accessible s.params .data a (n / 8) = true) : bcstAccess s n vl m a = true := by
  simp [bcstAccess, h]

theorem fullAccess_unsuppressed {s : State} (n vl : Nat) (m : Mask) (a : Addr)
    (h : s.params.faultSuppression = false) : fullAccess s n vl m a = accessible s.params .data a (vl / 8) := by
  simp [fullAccess, h]

theorem bcstAccess_unsuppressed {s : State} (n vl : Nat) (m : Mask) (a : Addr)
    (h : s.params.faultSuppression = false) : bcstAccess s n vl m a = accessible s.params .data a (n / 8) := by
  simp [bcstAccess, h]

/-- An operand behind a check that passes where the whole operand is accessible, and is no weaker without FAULT_SUPPRESSION. -/
theorem OperandChecked.of_check {α : Type} {s : State} {i : Instr} {acc : Access} {check : Bool} {v : α}
    (hacc : i.access = some acc) (hcls : i.osClass ≠ .mmx) (hrow : i.alignedRow = false) (hfull : i.fullRow = true)
    (hpass : accessible s.params .data (operandAddress s i acc) acc.bytes = true → check = true)
    (hplain : s.params.faultSuppression = false →
      check = accessible s.params .data (operandAddress s i acc) acc.bytes) :
    OperandChecked s i (if check then .ok v else .error (.memFault (operandAddress s i acc) acc.bytes)) := by
  refine .of_access hacc (fun x h => ?_) (fun hsup x h => ?_)
  · rw [operandRaises_iff_inaccessible hrow hcls]
    split at h
    · cases h
    · cases h; exact ⟨Bool.eq_false_iff.2 (mt hpass ‹_›), rfl⟩
  · obtain ⟨hdenied, rfl⟩ := (operandRaises_iff_inaccessible hrow hcls).1 h
    simp [hplain (hsup hfull), hdenied]

theorem sourceFull_checked {s : State} {i : Instr} {n vl : Nat} {m : Mask} {src : Source}
    (hacc : i.access = src.access (vl / 8) (n / 8)) (hcls : i.osClass ≠ .mmx) (hrow : i.alignedRow = false)
    (hfull : i.fullRow = true) : OperandChecked s i (s.sourceFull n vl i.len m src) := by
  cases src with
  | reg r => exact .of_no_access hacc _
  | mem a =>
    rw [State.sourceFull, ← operandAddress_eq s i ⟨a, vl / 8, vl / 8⟩]
    exact .of_check hacc hcls hrow hfull fullAccess_of_accessible (fullAccess_unsuppressed n vl m _)
  | bcst a =>
    rw [State.sourceFull, ← operandAddress_eq s i ⟨a, n / 8, n / 8⟩]
    exact .of_check hacc hcls hrow hfull bcstAccess_of_accessible (bcstAccess_unsuppressed n vl m _)

/-! ### Every instruction -/

/-- Behind its enable checks every instruction reads one checked operand, and completes where that does not fail. -/
theorem exec_reads_checked_operand (i : Instr) (s : State) :
    ∃ (w : Needs) (regs : List (BitVec 5)) (α : Type) (o : Except Fault α) (f : α → State),
      exec i s = enter s w regs (withOperand o fun v => .next (f v)) ∧ OperandChecked s i o := by
  cases i with
  | psrawMmRm rex d c | psradMmRm rex d c => exact ⟨_, _, _, _, _, rfl, countMm_checked rfl rfl rfl⟩
  | psrawXmmRm rex d c | psradXmmRm rex d c =>
    exact ⟨_, _, _, _, _, rfl, countXmm_checked (access_wideRm 16 1 c).symm nofun rfl⟩
  | psrawMmImm rex d imm | psradMmImm rex d imm | psrawXmmImm rex d imm | psradXmmImm rex d imm =>
    exact ⟨_, _, _, .ok (), fun _ => _, rfl, .of_no_access rfl _⟩
  | vpsrawXmmRm f d a c | vpsradXmmRm f d a c | vpsrawYmmRm f d a c | vpsradYmmRm f d a c =>
    exact ⟨_, _, _, _, _, rfl, countXmm_checked (access_wideRm 16 1 c).symm nofun rfl⟩
  | vpsrawXmmImm f d a imm | vpsradXmmImm f d a imm | vpsrawYmmImm f d a imm | vpsradYmmImm f d a imm =>
    exact ⟨_, _, _, .ok (), fun _ => _, rfl, .of_no_access rfl _⟩
  | evpsrawXmmRm w m d a c | evpsrawYmmRm w m d a c | evpsrawZmmRm w m d a c =>
    exact ⟨_, _, _, _, _, rfl, countXmm_checked rfl nofun rfl⟩
  | evpsradXmmRm m d a c | evpsradYmmRm m d a c | evpsradZmmRm m d a c | evpsraqXmmRm m d a c | evpsraqYmmRm m d a c
  | evpsraqZmmRm m d a c => exact ⟨_, _, _, _, _, rfl, countXmm_checked rfl nofun rfl⟩
  | evpsrawXmmImm w m d a imm | evpsrawYmmImm w m d a imm | evpsrawZmmImm w m d a imm =>
    exact ⟨_, _, _, _, _, rfl, sourceFullMem_checked rfl nofun rfl⟩
  | evpsradXmmImm m d a imm | evpsradYmmImm m d a imm | evpsradZmmImm m d a imm | evpsraqXmmImm m d a imm
  | evpsraqYmmImm m d a imm | evpsraqZmmImm m d a imm =>
    exact ⟨_, _, _, _, _, rfl, sourceFull_checked rfl nofun rfl rfl⟩

/-- A ready instruction faults only as the checks on its memory operand say. -/
theorem operandRaises_of_exec_fault {i : Instr} {s : State} {x : Fault} (hr : Ready s i) (h : exec i s = .fault x) :
    ∃ acc, i.access = some acc ∧ OperandRaises s i acc x := by
  obtain ⟨w, regs, α, o, f, hexec, hchecked⟩ := exec_reads_checked_operand i s
  obtain herr | ⟨v, -, hv⟩ := withOperand_fault ((exec_of_ready hr hexec).symm.trans h)
  · exact hchecked.sound x herr
  · cases hv

/-- A ready instruction faults as the checks on its memory operand say, where FAULT_SUPPRESSION exempts nothing. -/
theorem exec_of_operandRaises {i : Instr} {s : State} {acc : Access} {x : Fault} (hr : Ready s i)
    (hacc : i.access = some acc) (hsup : i.fullRow = true → s.params.faultSuppression = false)
    (h : OperandRaises s i acc x) : exec i s = .fault x := by
  obtain ⟨w, regs, α, o, f, hexec, hchecked⟩ := exec_reads_checked_operand i s
  rw [exec_of_ready hr hexec, hchecked.complete hsup acc x hacc h, withOperand_error]

/-- Rows 2 and 6 are not of tuple Full. -/
theorem not_fullRow_of_alignedRow {i : Instr} (h : i.alignedRow = true) : i.fullRow ≠ true := by
  cases i with
  | psrawXmmRm | psradXmmRm => exact nofun
  | _ => cases h

end Sys2Proof.Machine

namespace Sys2Proof.Claims

open Sys2Proof.Machine

/-- Settles O30: only a misaligned operand of rows 2 and 6 raises #GP(0), and the alignment is checked first. -/
theorem misalignedLegacyCountFaults : Obligations.MisalignedLegacyCountFaults := by
  intro i s
  constructor
  · intro h
    have hr := ready_of_operandFault (.inl rfl) h
    obtain ⟨acc, hacc, hraises⟩ := operandRaises_of_exec_fault hr h
    cases hraises with
    | misaligned hrow hmis => exact ⟨hr, hrow, acc, hacc, hmis⟩
  · rintro ⟨hr, hrow, acc, hacc, hmis⟩
    exact exec_of_operandRaises hr hacc (fun hfull => absurd hfull (not_fullRow_of_alignedRow hrow))
      (.misaligned hrow hmis)

/-- Settles O31: the accessibility of the whole operand is checked on every row, behind the alignment of rows 2 and 6. -/
theorem inaccessibleOperandFaults : Obligations.InaccessibleOperandFaults := by
  intro i s acc hr hacc hdenied hal hsup
  exact exec_of_operandRaises hr hacc hsup (.inaccessible hal hdenied)

/-- Settles O32: of the checks on the operand, these two raise a memory fault. -/
theorem memoryFaultsComeFromTheOperand : Obligations.MemoryFaultsComeFromTheOperand := by
  intro i s a n h
  have hr := ready_of_operandFault (.inr ⟨a, n, rfl⟩) h
  obtain ⟨acc, hacc, hraises⟩ := operandRaises_of_exec_fault hr h
  refine ⟨hr, acc, hacc, ?_⟩
  cases hraises with
  | alignmentCheck hcls hac hmis => exact ⟨rfl, rfl, .inr ⟨hcls, hac, hmis⟩⟩
  | inaccessible _ hdenied => exact ⟨rfl, rfl, .inl hdenied⟩

/-- Settles O33: on the MMX rows the alignment check raises the memory fault of the operand's eight bytes. -/
theorem alignmentCheckOnMmxCounts : Obligations.AlignmentCheckOnMmxCounts := by
  rintro s rex d m i (rfl | rfl) hr hac hmis <;>
    exact exec_of_operandRaises (acc := ⟨m, 8, 1⟩) hr rfl nofun (.alignmentCheck rfl hac hmis)

end Sys2Proof.Claims
end

section
/-! PROOFS. The operand bytes: what ModRM, SIB, displacement and immediate parse to, and that nothing else parses to it. -/

namespace Sys2Proof

open Sys2Proof.Claims

/-! ### Register numbers and their extension bits -/

@[simp] theorem ext4_getElem_three (e : Bool) (r : BitVec 3) : (ext4 e r)[3] = e := by grind [ext4]

@[simp] theorem extractLsb'_ext4 (e : Bool) (r : BitVec 3) : (ext4 e r).extractLsb' 0 3 = r :=
  BitVec.extractLsb'_append_eq_right

@[simp] theorem ext4_eta (r : BitVec 4) : ext4 r[3] (r.extractLsb' 0 3) = r := by grind [ext4]

@[simp] theorem ext5_getElem_three (e' e : Bool) (r : BitVec 3) : (ext5 e' e r)[3] = e := by grind [ext5]

@[simp] theorem ext5_getElem_four (e' e : Bool) (r : BitVec 3) : (ext5 e' e r)[4] = e' := by grind [ext5]

@[simp] theorem extractLsb'_ext5 (e' e : Bool) (r : BitVec 3) : (ext5 e' e r).extractLsb' 0 3 = r := by grind [ext5]

@[simp] theorem ext5_eta (r : BitVec 5) : ext5 r[4] r[3] (r.extractLsb' 0 3) = r := by grind [ext5]

@[simp] theorem extV_getElem_four (v' : Bool) (v : BitVec 4) : (extV v' v)[4] = v' := by grind [extV]

@[simp] theorem extractLsb'_extV (v' : Bool) (v : BitVec 4) : (extV v' v).extractLsb' 0 4 = v :=
  BitVec.extractLsb'_append_eq_right

@[simp] theorem extV_eta (r : BitVec 5) : extV r[4] (r.extractLsb' 0 4) = r := by grind [extV]

@[simp] theorem setWidth_four_getElem_three (r : BitVec 3) : (r.setWidth 4)[3] = false := by grind

@[simp] theorem extractLsb'_setWidth_four (r : BitVec 3) : (r.setWidth 4).extractLsb' 0 3 = r := by grind

/-! ### The operand with its extension bits replaced

The decoder reads the low bits of a register number from ModRM and SIB and its extension bits from what stands in front, so on
the bytes of an operand it answers the operand with the extension bits it was given. -/

/-- The operand with X as the extension bit of its index and B as that of its base, where it has them. -/
def Mem.setExt (x b : Bool) : Mem → Mem
  | .base d r => .base d (ext4 b (r.extractLsb' 0 3))
  | .rip d => .rip d
  | .sib d s i r => .sib d s (ext4 x (i.extractLsb' 0 3)) (ext4 b (r.extractLsb' 0 3))
  | .sibNoBase s i d => .sibNoBase s (ext4 x (i.extractLsb' 0 3)) d

/-- A register keeps no extension bit in `RmField`, so only memory changes. -/
def RmField.setExt (x b : Bool) : RmField → RmField
  | .reg n => .reg n
  | .mem m => .mem (m.setExt x b)

theorem Mem.setExt_own (m : Mem) : m.setExt m.extX m.extB = m := by
  cases m <;> simp [Mem.setExt, Mem.extX, Mem.extB]

/-- An operand that keeps its form under X and B has them as its own, once each names something where it is set. -/
theorem Mem.ext_of_setExt_eq {m : Mem} {x b : Bool} (h : m.setExt x b = m) (hx : x = true → m.hasSib = true)
    (hb : b = true → m.lacksBase = false) : m.extX = x ∧ m.extB = b := by
  have hown : (m.setExt x b).extX = x ∧ (m.setExt x b).extB = b := by
    cases m with
    | base d r => simpa [Mem.setExt, Mem.extX, Mem.extB, Mem.hasSib, eq_comm] using hx
    | rip d => simpa [Mem.setExt, Mem.extX, Mem.extB, Mem.hasSib, Mem.lacksBase, eq_comm] using And.intro hx hb
    | sib d s i r => simp [Mem.setExt, Mem.extX, Mem.extB]
    | sibNoBase s i d => simpa [Mem.setExt, Mem.extX, Mem.extB, Mem.lacksBase, eq_comm] using hb
  rwa [h] at hown

theorem Mem.hasSib_of_extX {m : Mem} (h : m.extX = true) : m.hasSib = true := by
  cases m with
  | base | rip => cases h
  | sib | sibNoBase => rfl

theorem Mem.not_lacksBase_of_extB {m : Mem} (h : m.extB = true) : m.lacksBase = false := by
  cases m with
  | rip | sibNoBase => cases h
  | base | sib => rfl

@[simp] theorem RmField.hasSib_setExt (x b : Bool) (c : RmField) : (c.setExt x b).hasSib = c.hasSib := by
  cases c with
  | reg n => rfl
  | mem m => cases m <;> rfl

@[simp] theorem RmField.lacksBase_setExt (x b : Bool) (c : RmField) : (c.setExt x b).lacksBase = c.lacksBase := by
  cases c with
  | reg n => rfl
  | mem m => cases m <;> rfl

@[simp] theorem RmField.isReg_setExt (x b : Bool) (c : RmField) : (c.setExt x b).isReg = c.isReg := by
  cases c <;> rfl

@[simp] theorem Mem.code_x (m : Mem) : m.code.x = m.extX := by cases m <;> rfl

@[simp] theorem Mem.code_b (m : Mem) : m.code.b = m.extB := by cases m <;> rfl

/-! ### Displacements -/

@[simp] theorem takeDisp32_bytes (d : BitVec 32) (rest : List Byte) : takeDisp32 (disp32Bytes d ++ rest) = some (d, rest) := by
  have hjoin : disp32Of (d.extractLsb' 0 8) (d.extractLsb' 8 8) (d.extractLsb' 16 8) (d.extractLsb' 24 8) = d := by
    grind [disp32Of]
  simp [disp32Bytes, takeDisp32, hjoin]

theorem takeDisp32_eq_some {bs r : List Byte} {d : BitVec 32} (h : takeDisp32 bs = some (d, r)) :
    bs = disp32Bytes d ++ r := by
  unfold takeDisp32 at h
  split at h
  · rename_i b0 b1 b2 b3 r'
    cases h
    have hsplit : disp32Bytes (disp32Of b0 b1 b2 b3) = [b0, b1, b2, b3] := by
      simp only [disp32Bytes, disp32Of, List.cons.injEq, and_true]
      grind
    simp [hsplit]
  · cases h

theorem takeDisp_eq_takeDisp32 {mod : BitVec 2} (h0 : mod ≠ 0#2) (h1 : mod ≠ 1#2) (bs : List Byte) :
    takeDisp mod bs = (takeDisp32 bs).map fun p => (.d32 p.1, p.2) := by
  unfold takeDisp takeDisp32
  rw [if_neg h0, if_neg h1]
  split <;> rfl

@[simp] theorem takeDisp_bytes (d : Disp) (rest : List Byte) : takeDisp d.mod (d.bytes ++ rest) = some (d, rest) := by
  cases d with
  | none => rfl
  | d8 v => rfl
  | d32 v =>
    rw [takeDisp_eq_takeDisp32 (by simp [Disp.mod]) (by simp [Disp.mod]), Disp.bytes, takeDisp32_bytes]
    rfl

theorem takeDisp_eq_some {mod : BitVec 2} {bs r : List Byte} {d : Disp} (hmod : mod ≠ 3#2)
    (h : takeDisp mod bs = some (d, r)) : d.mod = mod ∧ bs = d.bytes ++ r := by
  by_cases h0 : mod = 0#2
  · subst h0
    cases h
    exact ⟨rfl, rfl⟩
  by_cases h1 : mod = 1#2
  · subst h1
    cases bs with
    | nil => cases h
    | cons b bs => cases h; exact ⟨rfl, rfl⟩
  rw [takeDisp_eq_takeDisp32 h0 h1, Option.map_eq_some_iff] at h
  obtain ⟨⟨v, r'⟩, htake, heq⟩ := h
  cases heq
  have h2 : mod = 2#2 := by bv_omega
  exact ⟨h2.symm, takeDisp32_eq_some htake⟩

theorem Disp.mod_ne_three (d : Disp) : d.mod ≠ 3#2 := by cases d <;> simp [Disp.mod]

/-! ### SIB and ModRM -/

theorem sibByte_fields (s : BitVec 2) (i b : BitVec 3) :
    (sibByte s i b).extractLsb' 6 2 = s ∧ (sibByte s i b).extractLsb' 3 3 = i ∧ (sibByte s i b).extractLsb' 0 3 = b := by
  grind [sibByte]

theorem sibByte_eta (v : Byte) : sibByte (v.extractLsb' 6 2) (v.extractLsb' 3 3) (v.extractLsb' 0 3) = v := by
  grind [sibByte]

theorem Mem.code_mod_ne_three (m : Mem) : m.code.mod ≠ 3#2 := by
  cases m with
  | base d | sib d => exact d.mod_ne_three
  | rip | sibNoBase => simp [Mem.code]

/-- The base of a well-formed operand with a SIB byte is not spelled like "no base". -/
theorem Mem.wf_sib_iff {d : Disp} {s : BitVec 2} {i b : BitVec 4} :
    (Mem.sib d s i b).wf = true ↔ ¬ (d.mod = 0#2 ∧ b.extractLsb' 0 3 = 5#3) := by
  cases d <;> simp [Mem.wf, Disp.mod]

/-- The base of a well-formed operand without SIB byte is spelled neither like a SIB byte nor like a RIP-relative operand. -/
theorem Mem.wf_base_iff {d : Disp} {b : BitVec 4} :
    (Mem.base d b).wf = true ↔ b.extractLsb' 0 3 ≠ 4#3 ∧ ¬ (d.mod = 0#2 ∧ b.extractLsb' 0 3 = 5#3) := by
  cases d <;> simp [Mem.wf, Disp.mod]

/-- The bytes of a memory operand parse to it, with the extension bits given. -/
theorem parseMem_code {m : Mem} (hwf : m.wf = true) (x b : Bool) (rest : List Byte) :
    parseMem x b m.code.mod m.code.rm (m.code.tail ++ rest) = some (m.setExt x b, rest) := by
  cases m with
  | base d r =>
    obtain ⟨hsib, hrip⟩ := Mem.wf_base_iff.1 hwf
    simp only [Mem.code, parseMem, if_neg hsib, if_neg hrip, takeDisp_bytes, Mem.setExt]
  | rip d => simp [Mem.code, parseMem, Mem.setExt]
  | sib d s i r =>
    obtain ⟨hs, hi, hb⟩ := sibByte_fields s (i.extractLsb' 0 3) (r.extractLsb' 0 3)
    simp only [Mem.code, parseMem, if_true, List.cons_append, parseSib, hs, hi, hb, if_neg (Mem.wf_sib_iff.1 hwf),
      takeDisp_bytes, Mem.setExt]
  | sibNoBase s i d =>
    obtain ⟨hs, hi, hb⟩ := sibByte_fields s (i.extractLsb' 0 3) 5#3
    simp [Mem.code, parseMem, parseSib, hs, hi, hb, Mem.setExt]

/-- `m` is the operand that `mod`, `rm` and `tail` spell, and X and B stand in it. -/
structure SpeltMem (x b : Bool) (mod : BitVec 2) (rm : BitVec 3) (tail : List Byte) (m : Mem) : Prop where
  wf : m.wf = true
  ext : m.setExt x b = m
  mod : m.code.mod = mod
  rm : m.code.rm = rm
  tail : m.code.tail = tail

theorem parseSib_eq_some {x b : Bool} {mod : BitVec 2} {bs r : List Byte} {m : Mem} (hmod : mod ≠ 3#2)
    (h : parseSib x b mod bs = some (m, r)) : ∃ tail, bs = tail ++ r ∧ SpeltMem x b mod 4#3 tail m := by
  cases bs with
  | nil => cases h
  | cons v bs =>
    simp only [parseSib] at h
    split at h
    · rename_i hnone
      obtain ⟨rfl, hbase⟩ := hnone
      split at h
      · rename_i d r' htake
        cases h
        obtain rfl := takeDisp32_eq_some htake
        refine ⟨v :: disp32Bytes d, rfl, rfl, by simp [Mem.setExt], rfl, rfl, ?_⟩
        simp only [Mem.code, extractLsb'_ext4, ← hbase, sibByte_eta]
      · cases h
    · rename_i hbase
      split at h
      · rename_i d r' htake
        cases h
        obtain ⟨rfl, rfl⟩ := takeDisp_eq_some hmod htake
        refine ⟨v :: d.bytes, rfl, ?_, by simp [Mem.setExt], rfl, rfl, ?_⟩
        · rw [Mem.wf_sib_iff, extractLsb'_ext4]; exact hbase
        · simp only [Mem.code, extractLsb'_ext4, sibByte_eta]
      · cases h

/-- A memory operand is parsed from its own bytes only. -/
theorem parseMem_eq_some {x b : Bool} {mod : BitVec 2} {rm : BitVec 3} {bs r : List Byte} {m : Mem} (hmod : mod ≠ 3#2)
    (h : parseMem x b mod rm bs = some (m, r)) : ∃ tail, bs = tail ++ r ∧ SpeltMem x b mod rm tail m := by
  unfold parseMem at h
  split at h
  · rename_i hsib
    subst hsib
    exact parseSib_eq_some hmod h
  · rename_i hsib
    split at h
    · rename_i hrip
      obtain ⟨rfl, rfl⟩ := hrip
      split at h
      · rename_i d r' htake
        cases h
        exact ⟨disp32Bytes d, takeDisp32_eq_some htake, rfl, rfl, rfl, rfl, rfl⟩
      · cases h
    · rename_i hrip
      split at h
      · rename_i d r' htake
        cases h
        obtain ⟨rfl, rfl⟩ := takeDisp_eq_some hmod htake
        refine ⟨d.bytes, rfl, ?_, by simp [Mem.setExt], rfl, by simp [Mem.code], rfl⟩
        rw [Mem.wf_base_iff, extractLsb'_ext4]
        exact ⟨hsib, hrip⟩
      · cases h

/-- The ModRM byte (30_encoding.md rule R55). -/
def modrmByte (mod : BitVec 2) (reg rm : BitVec 3) : Byte := mod ++ (reg ++ rm)

theorem modrmByte_fields (mod : BitVec 2) (reg rm : BitVec 3) :
    (modrmByte mod reg rm).extractLsb' 6 2 = mod ∧ (modrmByte mod reg rm).extractLsb' 3 3 = reg ∧
      (modrmByte mod reg rm).extractLsb' 0 3 = rm := by
  grind [modrmByte]

theorem modrmByte_eta (v : Byte) : modrmByte (v.extractLsb' 6 2) (v.extractLsb' 3 3) (v.extractLsb' 0 3) = v := by
  grind [modrmByte]

theorem parseRm_rmCode {c : RmField} (hc : rmSpelt c = true) (x b : Bool) (reg : BitVec 3) (rest : List Byte) :
    parseRm x b (modrmByte (rmCode c).mod reg (rmCode c).rm) ((rmCode c).tail ++ rest) = some (c.setExt x b, rest) := by
  obtain ⟨hmod, -, hrm⟩ := modrmByte_fields (rmCode c).mod reg (rmCode c).rm
  rw [parseRm, hmod, hrm]
  cases c with
  | reg n => rfl
  | mem m =>
    simp only [rmCode, if_neg m.code_mod_ne_three, parseMem_code hc]
    rfl

theorem parseRm_eq_some {x b : Bool} {v : Byte} {bs r : List Byte} {c : RmField} (h : parseRm x b v bs = some (c, r)) :
    rmSpelt c = true ∧ c.setExt x b = c ∧ v = modrmByte (rmCode c).mod (v.extractLsb' 3 3) (rmCode c).rm ∧
      bs = (rmCode c).tail ++ r := by
  have hv := (modrmByte_eta v).symm
  unfold parseRm at h
  split at h
  · rename_i hreg
    cases h
    refine ⟨rfl, rfl, ?_, rfl⟩
    rw [hreg] at hv
    exact hv
  · rename_i hmod
    split at h
    · rename_i m r' hparse
      cases h
      obtain ⟨tail, rfl, hm⟩ := parseMem_eq_some hmod hparse
      refine ⟨hm.wf, congrArg RmField.mem hm.ext, ?_, by rw [rmCode, hm.tail]⟩
      rw [rmCode, hm.mod, hm.rm]
      exact hv
    · cases h

/-! ### From the opcode byte on -/

@[simp] theorem opcodeOf_byte (o : Opcode) : opcodeOf o.byte = some o := by cases o <;> rfl

theorem opcodeOf_eq_some {v : Byte} {o : Opcode} (h : opcodeOf v = some o) : v = o.byte := by
  unfold opcodeOf at h
  split at h
  · cases h; assumption
  split at h
  · cases h; assumption
  split at h
  · cases h; assumption
  split at h
  · cases h; assumption
  · cases h

/-- A body: the opcode byte, ModRM, what the operand puts behind it, the immediate byte of the opcodes that have one, the rest. -/
theorem opBody_eq (o : Opcode) (reg : BitVec 3) (c : RmField) (imm : Byte) (rest : List Byte) :
    opBody o reg c imm rest = o.byte :: modrmByte (rmCode c).mod reg (rmCode c).rm ::
      ((rmCode c).tail ++ ((if o.isImm then [imm] else []) ++ rest)) := by
  simp [opBody, bodyBytes, modrmByte]

theorem opBody_append (o : Opcode) (reg : BitVec 3) (c : RmField) (imm : Byte) (rest rest' : List Byte) :
    opBody o reg c imm rest ++ rest' = opBody o reg c imm (rest ++ rest') := by
  simp [opBody]

/-- The fields of a body, as the decoder answers them under X and B: the operand can be spelled and has these extension bits,
ModRM.reg is the opcode extension of an immediate form, and an immediate the opcode does not have is 0. -/
structure BodyFields (x b : Bool) (o : Opcode) (reg : BitVec 3) (c : RmField) (imm : Byte) : Prop where
  spelt : rmSpelt c = true
  ext : c.setExt x b = c
  reg : o.isImm = true → reg = 4#3
  imm : o.isImm = false → imm = 0#8

/-- The bytes of a body are read as its fields. -/
theorem decodeBody_opBody {o : Opcode} {reg : BitVec 3} {c : RmField} (hc : rmSpelt c = true)
    (hreg : o.isImm = true → reg = 4#3) (x b : Bool) (verdict : Opcode → BitVec 3 → RmField → Byte → Decoded)
    (imm : Byte) (rest : List Byte) :
    decodeBody x b verdict (opBody o reg c imm rest) =
      verdict o reg (c.setExt x b) (if o.isImm then imm else 0#8) := by
  obtain ⟨-, hfield, -⟩ := modrmByte_fields (rmCode c).mod reg (rmCode c).rm
  have hext : ¬ (o.isImm = true ∧ reg ≠ 4#3) := fun ⟨hi, hne⟩ => hne (hreg hi)
  have himm : takeImm o ((if o.isImm then [imm] else []) ++ rest) = some (if o.isImm then imm else 0#8) := by
    cases h : o.isImm with
    | true => simp [takeImm, h]
    | false => cases rest <;> simp [takeImm, h]
  simp only [opBody_eq, decodeBody, opcodeOf_byte, hfield, if_neg hext, parseRm_rmCode hc, himm]

theorem takeImm_eq_some {o : Opcode} {bs : List Byte} {imm : Byte} (h : takeImm o bs = some imm) :
    (o.isImm = false → imm = 0#8) ∧ ∃ rest, bs = (if o.isImm then [imm] else []) ++ rest := by
  cases hi : o.isImm with
  | true =>
    cases bs with
    | nil => simp [takeImm, hi] at h
    | cons v bs =>
      obtain rfl : v = imm := by simpa [takeImm, hi] using h
      exact ⟨nofun, bs, rfl⟩
  | false =>
    refine ⟨fun _ => ?_, bs, rfl⟩
    cases bs <;> simpa [takeImm, hi] using h.symm

/-- What decoding a body can answer: more bytes wanted, no row, or the verdict on the fields whose bytes stand there. -/
theorem decodeBody_cases (x b : Bool) (verdict : Opcode → BitVec 3 → RmField → Byte → Decoded) (bs : List Byte) :
    decodeBody x b verdict bs = .more ∨
    (∀ rest, decodeBody x b verdict (bs ++ rest) = .outOfScope) ∨
    ∃ o reg c imm rest, BodyFields x b o reg c imm ∧ bs = opBody o reg c imm rest ∧
      decodeBody x b verdict bs = verdict o reg c imm := by
  cases bs with
  | nil => exact .inl rfl
  | cons op bs =>
    cases hop : opcodeOf op with
    | none => exact .inr (.inl fun rest => by simp [decodeBody, hop])
    | some o =>
      obtain rfl := opcodeOf_eq_some hop
      cases bs with
      | nil => exact .inl (by simp [decodeBody])
      | cons v bs =>
        by_cases hext : o.isImm = true ∧ v.extractLsb' 3 3 ≠ 4#3
        · exact .inr (.inl fun rest => by simp [decodeBody, hext])
        have hreg : o.isImm = true → v.extractLsb' 3 3 = 4#3 := fun hi => not_not.1 fun hne => hext ⟨hi, hne⟩
        cases hrm : parseRm x b v bs with
        | none => exact .inl (by simp only [decodeBody, opcodeOf_byte, if_neg hext, hrm])
        | some p =>
          obtain ⟨c, tail⟩ := p
          obtain ⟨hspelt, hset, hv, rfl⟩ := parseRm_eq_some hrm
          cases himm : takeImm o tail with
          | none => exact .inl (by simp only [decodeBody, opcodeOf_byte, if_neg hext, hrm, himm])
          | some imm =>
            obtain ⟨hzero, rest, rfl⟩ := takeImm_eq_some himm
            refine .inr (.inr ⟨o, v.extractLsb' 3 3, c, imm, rest, ⟨hspelt, hset, hreg, hzero⟩, ?_, ?_⟩)
            · rw [opBody_eq, ← hv]
            · simp only [decodeBody, opcodeOf_byte, if_neg hext, hrm, himm]

/-- A body whose fields are canonical is read as these. -/
theorem BodyFields.decodeBody {x b : Bool} {o : Opcode} {reg : BitVec 3} {c : RmField} {imm : Byte}
    (h : BodyFields x b o reg c imm) (verdict : Opcode → BitVec 3 → RmField → Byte → Decoded) (rest : List Byte) :
    decodeBody x b verdict (opBody o reg c imm rest) = verdict o reg c imm := by
  rw [decodeBody_opBody h.spelt h.reg, h.ext]
  cases hi : o.isImm with
  | true => rfl
  | false => rw [h.imm hi]; rfl

/-- Bytes behind a body that has a verdict do not change it. -/
theorem decodeBody_append {x b : Bool} {verdict : Opcode → BitVec 3 → RmField → Byte → Decoded} {bs : List Byte}
    (h : decodeBody x b verdict bs ≠ .more) (rest : List Byte) :
    decodeBody x b verdict (bs ++ rest) = decodeBody x b verdict bs := by
  obtain hmore | hout | ⟨o, reg, c, imm, tail, hf, rfl, hv⟩ := decodeBody_cases x b verdict bs
  · exact absurd hmore h
  · rw [hout rest, ← List.append_nil bs, hout []]
  · rw [opBody_append, hf.decodeBody, hf.decodeBody]

end Sys2Proof
end

section
/-! PROOFS. The bytes in front of the opcode byte: prefixes, then the escape byte or the VEX or EVEX bytes, which together select
how the rest is decoded. -/

namespace Sys2Proof

open Sys2Proof.Claims

/-! ### Prefixes -/

theorem allPrefixes_nil : AllPrefixes [] := fun _ h => nomatch h

theorem allPrefixes_cons {p : Byte} {pre : List Byte} (hp : isLegacyByte p = true ∨ isRex p = true)
    (h : AllPrefixes pre) : AllPrefixes (p :: pre) :=
  List.forall_mem_cons.2 ⟨hp, h⟩

theorem splitPrefixes_cons {p : Byte} (hp : isLegacyByte p = true ∨ isRex p = true) (bs : List Byte) :
    splitPrefixes (p :: bs) = (p :: (splitPrefixes bs).1, (splitPrefixes bs).2) := by
  rw [splitPrefixes, if_pos (Bool.or_eq_true_iff.2 hp)]

theorem splitPrefixes_stop {b : Byte} (hl : isLegacyByte b = false) (hr : isRex b = false) (bs : List Byte) :
    splitPrefixes (b :: bs) = ([], b :: bs) := by
  simp [splitPrefixes, hl, hr]

/-- Prefixes in front are handed to the decoder's choice of a class. -/
theorem decode_after_prefixes {pre : List Byte} (hpre : AllPrefixes pre) {b : Byte} (hl : isLegacyByte b = false)
    (hr : isRex b = false) (bs : List Byte) : decode (pre ++ b :: bs) = decodeAfter pre (b :: bs) := by
  have hsplit : splitPrefixes (pre ++ b :: bs) = (pre, b :: bs) := by
    induction pre with
    | nil => exact splitPrefixes_stop hl hr bs
    | cons p pre ih =>
      obtain ⟨hp, hpre⟩ := List.forall_mem_cons.1 hpre
      rw [List.cons_append, splitPrefixes_cons hp, ih hpre]
  rw [decode, hsplit]

/-- Bytes are prefixes only, or prefixes in front of a byte that is none. -/
theorem prefixes_cases (bs : List Byte) :
    (splitPrefixes bs = (bs, [])) ∨
    ∃ pre b tl, AllPrefixes pre ∧ isLegacyByte b = false ∧ isRex b = false ∧ bs = pre ++ b :: tl := by
  induction bs with
  | nil => exact .inl rfl
  | cons p bs ih =>
    by_cases hp : isLegacyByte p = true ∨ isRex p = true
    · obtain hall | ⟨pre, b, tl, hpre, hl, hr, rfl⟩ := ih
      · exact .inl (by rw [splitPrefixes_cons hp, hall])
      · exact .inr ⟨p :: pre, b, tl, allPrefixes_cons hp hpre, hl, hr, rfl⟩
    · simp only [not_or, Bool.not_eq_true] at hp
      exact .inr ⟨[], p, bs, allPrefixes_nil, hp.1, hp.2, rfl⟩

/-- The last of the prefixes alone decides on REX (30_encoding.md rule R53). -/
theorem rexOf_cons {p : Byte} {pre : List Byte} (h : isRex p = false ∨ pre ≠ []) : rexOf (p :: pre) = rexOf pre := by
  cases pre with
  | nil => simpa [rexOf] using h
  | cons q pre => rfl

/-! ### The class of an encoding -/

/-- The bytes between the prefixes and the opcode byte, which select the class. -/
inductive Head where
  | legacy
  | vex2 (v : Byte)
  | vex3 (v w : Byte)
  | evex (p q t : Byte)

def Head.bytes : Head → List Byte
  | .legacy => [0x0F#8]
  | .vex2 v => [0xC5#8, v]
  | .vex3 v w => [0xC4#8, v, w]
  | .evex p q t => [0x62#8, p, q, t]

/-- `pp` and the map are those of the table (30_encoding.md rules R56, R57). -/
def Head.selects : Head → Prop
  | .legacy => True
  | .vex2 v => v.extractLsb' 0 2 = 1#2
  | .vex3 v w => v.extractLsb' 0 5 = 1#5 ∧ w.extractLsb' 0 2 = 1#2
  | .evex p q _ => p.extractLsb' 0 3 = 1#3 ∧ q.extractLsb' 0 2 = 1#2

/-- F2 or F3 in front of the escape byte selects another row (30_encoding.md rule R59). -/
def Head.foreign (pre : List Byte) : Head → Bool
  | .legacy => pre.contains 0xF2#8 || pre.contains 0xF3#8
  | .vex2 _ | .vex3 _ _ | .evex _ _ _ => false

/-- The X bit, at its logical value. -/
def Head.extX (pre : List Byte) : Head → Bool
  | .legacy => bitOf ((rexOf pre).getD 0#8) 1
  | .vex2 _ => false
  | .vex3 v _ => !bitOf v 6
  | .evex p _ _ => !bitOf p 6

/-- The B bit, at its logical value. -/
def Head.extB (pre : List Byte) : Head → Bool
  | .legacy => bitOf ((rexOf pre).getD 0#8) 0
  | .vex2 _ => false
  | .vex3 v _ => !bitOf v 5
  | .evex p _ _ => !bitOf p 5

/-- The verdict on the fields behind this class. -/
def Head.verdict (pre : List Byte) : Head → Opcode → BitVec 3 → RmField → Byte → Decoded
  | .legacy => legacyVerdict pre
  | .vex2 v => vexVerdict pre (vex2Bits v)
  | .vex3 v w => vexVerdict pre (vex3Bits v w)
  | .evex p q t => evexVerdict pre (evexBits p q t)

theorem classHead_iff (l : List Byte) : ClassHead l ↔ ∃ h : Head, h.selects ∧ l = h.bytes := by
  constructor
  · rintro (rfl | ⟨v, hv, rfl⟩ | ⟨v, w, hv, hw, rfl⟩ | ⟨p, q, t, hp, hq, rfl⟩)
    · exact ⟨.legacy, trivial, rfl⟩
    · exact ⟨.vex2 v, hv, rfl⟩
    · exact ⟨.vex3 v w, ⟨hv, hw⟩, rfl⟩
    · exact ⟨.evex p q t, ⟨hp, hq⟩, rfl⟩
  · rintro ⟨_ | v | ⟨v, w⟩ | ⟨p, q, t⟩, hsel, rfl⟩
    · exact .inl rfl
    · exact .inr (.inl ⟨v, hsel, rfl⟩)
    · exact .inr (.inr (.inl ⟨v, w, hsel.1, hsel.2, rfl⟩))
    · exact .inr (.inr (.inr ⟨p, q, t, hsel.1, hsel.2, rfl⟩))

/-- Behind prefixes and a class of the table the body is decoded under that class. -/
theorem decode_head {pre : List Byte} (hpre : AllPrefixes pre) {h : Head} (hsel : h.selects) (bs : List Byte) :
    decode (pre ++ (h.bytes ++ bs)) =
      if h.foreign pre then .outOfScope else decodeBody (h.extX pre) (h.extB pre) (h.verdict pre) bs := by
  cases h with
  | legacy => exact decode_after_prefixes hpre rfl rfl bs
  | vex2 v =>
    refine (decode_after_prefixes hpre rfl rfl _).trans ?_
    exact if_neg (not_not.2 hsel)
  | vex3 v w =>
    refine (decode_after_prefixes hpre rfl rfl _).trans ?_
    exact (if_neg (not_not.2 hsel.1)).trans (if_neg (not_not.2 hsel.2))
  | evex p q t =>
    refine (decode_after_prefixes hpre rfl rfl _).trans ?_
    exact (if_neg (not_not.2 hsel.1)).trans (if_neg (not_not.2 hsel.2))

/-- What choosing a class can answer: more bytes wanted, no row, or a class of the table. -/
theorem decodeAfter_cases (pre : List Byte) (bs : List Byte) :
    decodeAfter pre bs = .more ∨ (∀ rest, decodeAfter pre (bs ++ rest) = .outOfScope) ∨
    ∃ (h : Head) (tl : List Byte), h.selects ∧ bs = h.bytes ++ tl := by
  cases bs with
  | nil => exact .inl rfl
  | cons b bs =>
    by_cases h0F : b = 0x0F#8
    · subst h0F
      exact .inr (.inr ⟨.legacy, bs, trivial, rfl⟩)
    by_cases hC5 : b = 0xC5#8
    · subst hC5
      cases bs with
      | nil => exact .inl rfl
      | cons v bs =>
        by_cases hv : v.extractLsb' 0 2 = 1#2
        · exact .inr (.inr ⟨.vex2 v, bs, hv, rfl⟩)
        · exact .inr (.inl fun _ => if_pos hv)
    by_cases hC4 : b = 0xC4#8
    · subst hC4
      cases bs with
      | nil => exact .inl rfl
      | cons v bs =>
        by_cases hv : v.extractLsb' 0 5 = 1#5
        · cases bs with
          | nil => exact .inl (if_neg (not_not.2 hv))
          | cons w bs =>
            by_cases hw : w.extractLsb' 0 2 = 1#2
            · exact .inr (.inr ⟨.vex3 v w, bs, ⟨hv, hw⟩, rfl⟩)
            · exact .inr (.inl fun _ => (if_neg (not_not.2 hv)).trans (if_pos hw))
        · exact .inr (.inl fun _ => if_pos hv)
    by_cases h62 : b = 0x62#8
    · subst h62
      cases bs with
      | nil => exact .inl rfl
      | cons p bs =>
        by_cases hp : p.extractLsb' 0 3 = 1#3
        · cases bs with
          | nil => exact .inl (if_neg (not_not.2 hp))
          | cons q bs =>
            by_cases hq : q.extractLsb' 0 2 = 1#2
            · cases bs with
              | nil => exact .inl ((if_neg (not_not.2 hp)).trans (if_neg (not_not.2 hq)))
              | cons t bs => exact .inr (.inr ⟨.evex p q t, bs, ⟨hp, hq⟩, rfl⟩)
            · exact .inr (.inl fun _ => (if_neg (not_not.2 hp)).trans (if_pos hq))
        · exact .inr (.inl fun _ => if_pos hp)
    · exact .inr (.inl fun rest => by simp [decodeAfter, h0F, hC5, hC4, h62])

/-- What decoding can answer: more bytes wanted, no row, or what the body behind prefixes and a class of the table decodes to. -/
theorem decode_cases (bs : List Byte) :
    decode bs = .more ∨ (∀ rest, decode (bs ++ rest) = .outOfScope) ∨
    ∃ (pre : List Byte) (h : Head) (tl : List Byte), AllPrefixes pre ∧ h.selects ∧ h.foreign pre = false ∧
      bs = pre ++ (h.bytes ++ tl) := by
  obtain hall | ⟨pre, b, tl, hpre, hl, hr, rfl⟩ := prefixes_cases bs
  · exact .inl (by rw [decode, hall]; rfl)
  obtain hmore | hout | ⟨h, tl', hsel, heq⟩ := decodeAfter_cases pre (b :: tl)
  · exact .inl ((decode_after_prefixes hpre hl hr tl).trans hmore)
  · refine .inr (.inl fun rest => ?_)
    rw [List.append_assoc, List.cons_append, decode_after_prefixes hpre hl hr]
    exact hout rest
  · rw [heq]
    cases hforeign : h.foreign pre with
    | true =>
      refine .inr (.inl fun rest => ?_)
      rw [List.append_assoc, List.append_assoc, decode_head hpre hsel, hforeign, if_pos rfl]
    | false => exact .inr (.inr ⟨pre, h, tl', hpre, hsel, hforeign, rfl⟩)

/-- Bytes behind a verdict do not change it: no byte is asked for once one is reached (30_encoding.md rule R60). -/
theorem decode_append {bs : List Byte} (h : decode bs ≠ .more) (rest : List Byte) : decode (bs ++ rest) = decode bs := by
  obtain hmore | hout | ⟨pre, hd, tl, hpre, hsel, hforeign, rfl⟩ := decode_cases bs
  · exact absurd hmore h
  · rw [hout rest, ← List.append_nil bs, hout []]
  · simp only [List.append_assoc, decode_head hpre hsel, hforeign, Bool.false_eq_true, if_false] at h ⊢
    exact decodeBody_append h rest

/-- An opcode byte other than the table's four ends the decoding. -/
theorem decodeBody_of_opcode_none {op : Byte} (h : opcodeOf op = none) (x b : Bool)
    (verdict : Opcode → BitVec 3 → RmField → Byte → Decoded) (bs : List Byte) :
    decodeBody x b verdict (op :: bs) = .outOfScope := by
  simp [decodeBody, h]

/-- So does, on opcodes 71 and 72, a ModRM.reg other than 100. -/
theorem decodeBody_of_reg_ne {o : Opcode} (ho : o.isImm = true) {modrm : Byte} (h : modrm.extractLsb' 3 3 ≠ 4#3)
    (x b : Bool) (verdict : Opcode → BitVec 3 → RmField → Byte → Decoded) (bs : List Byte) :
    decodeBody x b verdict (o.byte :: modrm :: bs) = .outOfScope := by
  simp [decodeBody, ho, h]

end Sys2Proof

namespace Sys2Proof.Claims

/-- Settles O50: no row is left once the first byte that selects none is read, and no verdict on the prefixes comes before that. -/
theorem otherOpcodesAreOutOfScope : Obligations.OtherOpcodesAreOutOfScope := by
  intro pre rest hpre
  have hbody : ∀ (l bs : List Byte), ClassHead l → (∀ x b verdict, decodeBody x b verdict bs = .outOfScope) →
      decode (pre ++ (l ++ bs)) = .outOfScope := by
    intro l bs hl hout
    obtain ⟨h, hsel, rfl⟩ := (classHead_iff l).1 hl
    rw [decode_head hpre hsel, hout, ite_self]
  refine ⟨?_, ?_, ?_, fun v w => ⟨?_, ?_, ?_, ?_, ?_⟩⟩
  · intro b hl hr h0F hC5 hC4 h62
    rw [decode_after_prefixes hpre hl hr]
    simp [decodeAfter, h0F, hC5, hC4, h62]
  · intro l op hl hE1 hE2 h71 h72
    have hop : opcodeOf op = none := by simp [opcodeOf, hE1, hE2, h71, h72]
    exact hbody l _ hl fun x b verdict => decodeBody_of_opcode_none hop x b verdict rest
  · rintro l op modrm hl (rfl | rfl) hreg
    · exact hbody l _ hl fun x b verdict => decodeBody_of_reg_ne (o := .i71) rfl hreg x b verdict rest
    · exact hbody l _ hl fun x b verdict => decodeBody_of_reg_ne (o := .i72) rfl hreg x b verdict rest
  · exact fun hv => (decode_after_prefixes hpre rfl rfl _).trans (if_pos hv)
  · exact fun hv => (decode_after_prefixes hpre rfl rfl _).trans (if_pos hv)
  · exact fun hv hw => (decode_after_prefixes hpre rfl rfl _).trans ((if_neg (not_not.2 hv)).trans (if_pos hw))
  · exact fun hv => (decode_after_prefixes hpre rfl rfl _).trans (if_pos hv)
  · exact fun hv hw => (decode_after_prefixes hpre rfl rfl _).trans ((if_neg (not_not.2 hv)).trans (if_pos hw))

end Sys2Proof.Claims
end

section
/-! PROOFS. The verdict on the fields of an encoding: the order of its checks, and when a class refuses a bit that names nothing. -/

namespace Sys2Proof

open Sys2Proof.Claims

/-! ### The checks in their order -/

/-- The order of 40_shift_core.md rule R97 step 1: a bit not canonical, a byte not admitted, an invalid encoding, the row. -/
def verdictOf (bit : Option PrefixBit) (byte : Option Byte) (invalid : Bool) (row : Decoded) : Decoded :=
  match bit with
  | some bit => .nonCanonical bit
  | none =>
    match byte with
    | some byte => .prefixNotAdmitted byte
    | none => if invalid then .ud else row

/-- The first bit of rule R54 that is not canonical. -/
def Head.nonCanonical (pre : List Byte) : Head → Opcode → RmField → Option PrefixBit
  | .legacy => legacyNonCanonical (!pre.contains 0x66#8) ((rexOf pre).getD 0#8)
  | .vex2 v => vexNonCanonical (vex2Bits v)
  | .vex3 v w => vexNonCanonical (vex3Bits v w)
  | .evex p q t => evexNonCanonical (evexBits p q t)

/-- The #UD causes of rules R59 and R61 that do not depend on the row. -/
def Head.invalid (pre : List Byte) : Head → Opcode → RmField → Bool
  | .legacy => fun _ _ => pre.contains 0xF0#8
  | .vex2 _ | .vex3 _ _ => fun _ _ => !pre.isEmpty
  | .evex p q t => fun o rm => !pre.isEmpty || evexInvalid (evexBits p q t) o rm

/-- The row the fields select (30_encoding.md rule R65). -/
def Head.row (pre : List Byte) : Head → Opcode → BitVec 3 → RmField → Byte → Decoded
  | .legacy => legacyRow (pre.contains 0x66#8) (rexOf pre).isSome (bitOf ((rexOf pre).getD 0#8) 2)
      (bitOf ((rexOf pre).getD 0#8) 0)
  | .vex2 v => vexRow (vex2Bits v)
  | .vex3 v w => vexRow (vex3Bits v w)
  | .evex p q t => evexRow (evexBits p q t)

theorem Head.verdict_eq (h : Head) (pre : List Byte) (o : Opcode) (reg : BitVec 3) (rm : RmField) (imm : Byte) :
    h.verdict pre o reg rm imm =
      verdictOf (h.nonCanonical pre o rm) (firstNotAdmitted [] pre) (h.invalid pre o rm) (h.row pre o reg rm imm) := by
  cases h <;> rfl

theorem verdictOf_row (row : Decoded) : verdictOf none none false row = row := rfl

theorem verdictOf_invalid (row : Decoded) : verdictOf none none true row = .ud := rfl

theorem verdictOf_notAdmitted (byte : Byte) (invalid : Bool) (row : Decoded) :
    verdictOf none (some byte) invalid row = .prefixNotAdmitted byte := rfl

theorem verdictOf_eq_ok {bit : Option PrefixBit} {byte : Option Byte} {invalid : Bool} {row : Decoded} {i : Instr}
    (h : verdictOf bit byte invalid row = .ok i) : bit = none ∧ byte = none ∧ invalid = false ∧ row = .ok i := by
  cases bit with
  | some => cases h
  | none =>
    cases byte with
    | some => cases h
    | none =>
      cases invalid with
      | true => cases h
      | false => exact ⟨rfl, rfl, rfl, h⟩

theorem legacyRow_ne_nonCanonical (p66 rex r b : Bool) (o : Opcode) (reg : BitVec 3) (rm : RmField) (imm : Byte)
    (bit : PrefixBit) : legacyRow p66 rex r b o reg rm imm ≠ .nonCanonical bit := by
  unfold legacyRow
  repeat' split
  all_goals exact nofun

theorem vexRow_ne_nonCanonical (v : VexBits) (o : Opcode) (reg : BitVec 3) (rm : RmField) (imm : Byte)
    (bit : PrefixBit) : vexRow v o reg rm imm ≠ .nonCanonical bit := by
  unfold vexRow
  repeat' split
  all_goals exact nofun

theorem evexRow_ne_nonCanonical (e : EvexBits) (o : Opcode) (reg : BitVec 3) (rm : RmField) (imm : Byte)
    (bit : PrefixBit) : evexRow e o reg rm imm ≠ .nonCanonical bit := by
  unfold evexRow
  repeat' split
  all_goals exact nofun

/-- Selecting a row refuses no bit. -/
theorem Head.row_ne_nonCanonical (h : Head) (pre : List Byte) (o : Opcode) (reg : BitVec 3) (rm : RmField) (imm : Byte)
    (bit : PrefixBit) : h.row pre o reg rm imm ≠ .nonCanonical bit := by
  cases h with
  | legacy => exact legacyRow_ne_nonCanonical _ _ _ _ _ _ _ _ _
  | vex2 | vex3 => exact vexRow_ne_nonCanonical _ _ _ _ _ _
  | evex => exact evexRow_ne_nonCanonical _ _ _ _ _ _

theorem verdictOf_refuses_iff {bit : Option PrefixBit} {byte : Option Byte} {invalid : Bool} {row : Decoded}
    (hrow : ∀ b, row ≠ .nonCanonical b) : (∃ b, verdictOf bit byte invalid row = .nonCanonical b) ↔ bit ≠ none := by
  cases bit with
  | some b => exact ⟨fun _ => nofun, fun _ => ⟨b, rfl⟩⟩
  | none =>
    cases byte with
    | some => simp [verdictOf]
    | none => cases invalid <;> simp [verdictOf, hrow]

/-! ### The bits of rule R54, class by class -/

theorem legacyNonCanonical_eq_none_iff {mmx : Bool} {rex : Byte} {o : Opcode} {rm : RmField} :
    legacyNonCanonical mmx rex o rm = none ↔
      bitOf rex 3 = false ∧ (bitOf rex 2 = true → mmx = false ∧ o.isImm = false) ∧
      (bitOf rex 1 = true → rm.hasSib = true) ∧
      (bitOf rex 0 = true → (mmx = true → o.isImm = false ∧ rm.isReg = false) ∧ rm.lacksBase = false) := by
  unfold legacyNonCanonical
  grind

theorem vexNonCanonical_eq_none_iff {v : VexBits} {o : Opcode} {rm : RmField} :
    vexNonCanonical v o rm = none ↔
      (v.r = true → o.isImm = false) ∧ (v.x = true → rm.hasSib = true) ∧ (v.b = true → rm.lacksBase = false) := by
  unfold vexNonCanonical
  grind

theorem evexNonCanonical_eq_none_iff {e : EvexBits} {o : Opcode} {rm : RmField} :
    evexNonCanonical e o rm = none ↔
      (e.r = true → o.isImm = false) ∧ (e.r' = true → o.isImm = false) ∧
      (e.x = true → rm.isReg = true ∨ rm.hasSib = true) ∧ (e.b = true → rm.lacksBase = false) := by
  unfold evexNonCanonical
  grind

/-- Which bits name something depends on the form of the operand, not on its extension bits. -/
theorem Head.nonCanonical_setExt (h : Head) (pre : List Byte) (o : Opcode) (c : RmField) (x b : Bool) :
    h.nonCanonical pre o (c.setExt x b) = h.nonCanonical pre o c := by
  cases h <;>
    simp only [Head.nonCanonical, legacyNonCanonical, vexNonCanonical, evexNonCanonical, RmField.hasSib_setExt,
      RmField.lacksBase_setExt, RmField.isReg_setExt]

/-! ### Decoding the bytes of given fields -/

/-- What bytes decode to that consist of prefixes, a class of the table and a body whose operand can be spelled. -/
theorem decode_fields {pre : List Byte} (hpre : AllPrefixes pre) {h : Head} (hsel : h.selects)
    (hforeign : h.foreign pre = false) {o : Opcode} {reg : BitVec 3} {c : RmField} (hc : rmSpelt c = true)
    (hreg : o.isImm = true → reg = 4#3) (imm : Byte) (rest : List Byte) :
    decode (pre ++ (h.bytes ++ opBody o reg c imm rest)) =
      verdictOf (h.nonCanonical pre o c) (firstNotAdmitted [] pre)
        (h.invalid pre o (c.setExt (h.extX pre) (h.extB pre)))
        (h.row pre o reg (c.setExt (h.extX pre) (h.extB pre)) (if o.isImm then imm else 0#8)) := by
  rw [decode_head hpre hsel, hforeign, if_neg (by decide), decodeBody_opBody hc hreg, h.verdict_eq,
    h.nonCanonical_setExt]

/-- Such bytes are refused for a bit exactly when the class has one that is not canonical. -/
theorem refuses_iff {pre : List Byte} (hpre : AllPrefixes pre) {h : Head} (hsel : h.selects)
    (hforeign : h.foreign pre = false) {o : Opcode} {reg : BitVec 3} {c : RmField} (hc : rmSpelt c = true)
    (hreg : o.isImm = true → reg = 4#3) (imm : Byte) (rest : List Byte) :
    Refuses (pre ++ (h.bytes ++ opBody o reg c imm rest)) ↔ ¬ h.nonCanonical pre o c = none := by
  rw [Refuses, decode_fields hpre hsel hforeign hc hreg]
  exact verdictOf_refuses_iff fun bit => h.row_ne_nonCanonical _ _ _ _ _ bit

/-! ### REX bytes -/

theorem isRex_rexWrxb (w r x b : Bool) : isRex (rexWrxb w r x b) = true := by
  revert w r x b; decide

theorem bitOf_rexWrxb (w r x b : Bool) :
    bitOf (rexWrxb w r x b) 3 = w ∧ bitOf (rexWrxb w r x b) 2 = r ∧ bitOf (rexWrxb w r x b) 1 = x ∧
      bitOf (rexWrxb w r x b) 0 = b := by
  revert w r x b; decide

/-- A REX byte is its four bits (30_encoding.md rule R53). -/
theorem eq_rexWrxb {p : Byte} (h : isRex p = true) : p = rexWrxb (bitOf p 3) (bitOf p 2) (bitOf p 1) (bitOf p 0) := by
  simp only [isRex, beq_iff_eq] at h
  rw [rexWrxb, ← h]
  grind [bitOf]

/-- A REX byte is none of the legacy prefixes. -/
theorem not_isLegacyByte_of_isRex {p : Byte} (h : isRex p = true) : isLegacyByte p = false := by
  rw [eq_rexWrxb h]
  generalize bitOf p 3 = w, bitOf p 2 = r, bitOf p 1 = x, bitOf p 0 = b
  revert w r x b; decide

end Sys2Proof

namespace Sys2Proof.Claims

/-- Settles O51: in each class the bits of R54, on an operand of any form. -/
theorem meaninglessBitsAreRefused : Obligations.MeaninglessBitsAreRefused := by
  intro o reg c imm rest hc hreg
  have hiff : ∀ (pre : List Byte) (h : Head), AllPrefixes pre → h.selects → h.foreign pre = false →
      (Refuses (pre ++ (h.bytes ++ opBody o reg c imm rest)) ↔ ¬ h.nonCanonical pre o c = none) :=
    fun pre h hpre hsel hforeign => refuses_iff hpre hsel hforeign hc hreg imm rest
  have h66 : AllPrefixes [0x66#8] := allPrefixes_cons (.inl rfl) allPrefixes_nil
  refine ⟨⟨?_, ?_⟩, fun w r x b => ?_, fun v hv => ?_, fun v v2 hv hv2 => ?_, fun p q t hp hq => ?_⟩
  · refine (not_congr (hiff [] .legacy allPrefixes_nil trivial rfl)).2 (not_not.2 ?_)
    simp [Head.nonCanonical, legacyNonCanonical_eq_none_iff, rexOf, bitOf]
  · refine (not_congr (hiff [0x66#8] .legacy h66 trivial rfl)).2 (not_not.2 ?_)
    simp [Head.nonCanonical, legacyNonCanonical_eq_none_iff, rexOf, isRex, bitOf]
  · obtain ⟨hw, hr, hx, hb⟩ := bitOf_rexWrxb w r x b
    have hrex := isRex_rexWrxb w r x b
    have hpre : AllPrefixes [rexWrxb w r x b] := allPrefixes_cons (.inr hrex) allPrefixes_nil
    have hcontains : ∀ p, isLegacyByte p = true → [rexWrxb w r x b].contains p = false := fun p hp => by
      have hne : p ≠ rexWrxb w r x b := by
        rintro rfl
        simp [not_isLegacyByte_of_isRex hrex] at hp
      simpa using hne
    have hforeign : Head.legacy.foreign [rexWrxb w r x b] = false := by
      simp only [Head.foreign, hcontains 0xF2#8 rfl, hcontains 0xF3#8 rfl, Bool.or_self]
    refine ⟨(hiff [rexWrxb w r x b] .legacy hpre trivial hforeign).trans ?_,
      (hiff [0x66#8, rexWrxb w r x b] .legacy (allPrefixes_cons (.inl rfl) hpre) trivial ?_).trans ?_⟩
    · simp only [Head.nonCanonical, legacyNonCanonical_eq_none_iff, rexOf, hrex, hcontains 0x66#8 rfl, if_true,
        Option.getD_some, hw, hr, hx, hb]
      grind
    · simpa [Head.foreign] using hforeign
    · simp only [Head.nonCanonical, legacyNonCanonical_eq_none_iff, rexOf, hrex, List.contains_cons, beq_self_eq_true,
        if_true, Option.getD_some, hw, hr, hx, hb]
      grind
  · refine (hiff [] (.vex2 v) allPrefixes_nil hv rfl).trans ?_
    simp [Head.nonCanonical, vexNonCanonical_eq_none_iff, vex2Bits, bitOf]
  · refine (hiff [] (.vex3 v v2) allPrefixes_nil ⟨hv, hv2⟩ rfl).trans ?_
    simp only [Head.nonCanonical, vexNonCanonical_eq_none_iff, vex3Bits, bitOf]
    grind
  · refine (hiff [] (.evex p q t) allPrefixes_nil ⟨hp, hq⟩ rfl).trans ?_
    simp only [Head.nonCanonical, evexNonCanonical_eq_none_iff, evexBits, bitOf]
    grind

end Sys2Proof.Claims
end

section
/-! PROOFS. Memory operands on the register-only forms, opcodes 71 and 72 outside EVEX. -/

namespace Sys2Proof

open Sys2Proof.Claims

/-- Outside EVEX no row with an immediate has a memory operand (30_encoding.md rule R61). -/
theorem Head.row_imm_mem {h : Head} (hevex : ∀ p q t, h ≠ .evex p q t) {o : Opcode} (ho : o.isImm = true)
    (pre : List Byte) (reg : BitVec 3) (m : Mem) (imm : Byte) : h.row pre o reg (.mem m) imm = .ud := by
  have hlegacy : ∀ p66 rex r b, legacyRow p66 rex r b o reg (.mem m) imm = .ud := fun p66 rex r b => by
    cases o with
    | e1 | e2 => cases ho
    | i71 | i72 => cases p66 <;> rfl
  have hvex : ∀ v, vexRow v o reg (.mem m) imm = .ud := fun v => by
    cases o with
    | e1 | e2 => cases ho
    | i71 | i72 => unfold vexRow; cases v.l <;> rfl
  cases h with
  | legacy => exact hlegacy ..
  | vex2 | vex3 => exact hvex _
  | evex p q t => exact absurd rfl (hevex p q t)

/-- With all bits canonical and all prefixes admitted, #UD is what remains for such an operand. -/
theorem decode_imm_mem {pre : List Byte} {h : Head} (hpre : AllPrefixes pre) (hsel : h.selects)
    (hforeign : h.foreign pre = false) (hevex : ∀ p q t, h ≠ .evex p q t) {o : Opcode} (ho : o.isImm = true) {m : Mem}
    (hm : m.wf = true) (hcanon : h.nonCanonical pre o (.mem m) = none) (hallowed : firstNotAdmitted [] pre = none)
    (imm : Byte) (rest : List Byte) :
    decode (pre ++ (h.bytes ++ (bodyBytes o 4#3 m.code [imm] ++ rest))) = .ud := by
  have hbody : bodyBytes o 4#3 m.code [imm] ++ rest = opBody o 4#3 (.mem m) imm rest := by simp [opBody, rmCode, ho]
  rw [hbody, decode_fields (c := .mem m) hpre hsel hforeign hm fun _ => rfl, hcanon, hallowed, RmField.setExt,
    Head.row_imm_mem hevex ho]
  cases h.invalid pre o (.mem (m.setExt (h.extX pre) (h.extB pre))) <;> rfl

end Sys2Proof

namespace Sys2Proof.Claims

/-- Settles O49: in each class the bits of a memory operand that can be spelled are canonical, so its form decides. -/
theorem registerOnlyFormsRejectMemory : Obligations.RegisterOnlyFormsRejectMemory := by
  intro o m imm rest ho hm
  have h66 : AllPrefixes [0x66#8] := allPrefixes_cons (.inl rfl) allPrefixes_nil
  have hX : m.extX = true → (RmField.mem m).hasSib = true := m.hasSib_of_extX
  have hB : m.extB = true → (RmField.mem m).lacksBase = false := m.not_lacksBase_of_extB
  refine ⟨fun _ _ => ⟨?_, ?_, fun v hpp hR => ?_⟩, ?_, fun v w hmap hR hvX hvB hpp => ?_⟩
  · refine decode_imm_mem (pre := []) (h := .legacy) allPrefixes_nil trivial rfl nofun ho hm ?_ rfl imm rest
    simp [Head.nonCanonical, legacyNonCanonical_eq_none_iff, rexOf, bitOf]
  · refine decode_imm_mem (pre := [0x66#8]) (h := .legacy) h66 trivial rfl nofun ho hm ?_ rfl imm rest
    simp [Head.nonCanonical, legacyNonCanonical_eq_none_iff, rexOf, isRex, bitOf]
  · refine decode_imm_mem (pre := []) (h := .vex2 v) allPrefixes_nil hpp rfl nofun ho hm ?_ rfl imm rest
    simp only [Head.nonCanonical, vexNonCanonical_eq_none_iff, vex2Bits, bitOf, hR]
    exact ⟨nofun, nofun, nofun⟩
  · have hrex := isRex_rexWrxb false false m.extX m.extB
    obtain ⟨hw, hr, hx, hb⟩ := bitOf_rexWrxb false false m.extX m.extB
    refine decode_imm_mem (pre := [0x66#8, rexWrxb false false m.extX m.extB]) (h := .legacy)
      (allPrefixes_cons (.inl rfl) (allPrefixes_cons (.inr hrex) allPrefixes_nil)) trivial ?_ nofun ho hm ?_ ?_ imm rest
    · generalize m.extX = x, m.extB = b
      revert x b; decide
    · simp only [Head.nonCanonical, legacyNonCanonical_eq_none_iff, rexOf, hrex, List.contains_cons, beq_self_eq_true,
        if_true, Option.getD_some, hw, hr, hx, hb]
      exact ⟨trivial, nofun, hX, fun h => ⟨nofun, hB h⟩⟩
    · generalize m.extX = x, m.extB = b
      revert x b; decide
  · refine decode_imm_mem (pre := []) (h := .vex3 v w) allPrefixes_nil ⟨hmap, hpp⟩ rfl nofun ho hm ?_ rfl imm rest
    simp only [Head.nonCanonical, vexNonCanonical_eq_none_iff, vex3Bits, bitOf, hR, hvX, hvB, Bool.not_not]
    exact ⟨nofun, hX, hB⟩

end Sys2Proof.Claims
end

section
/-! PROOFS. The three classes by what their bytes mean: the fields in front of the opcode byte as data, the bytes they are written
as, and that the decoder reads these bytes, and no others it admits, as those fields. -/

namespace Sys2Proof

open Sys2Proof.Claims

/-! ### What stands in front of the opcode byte -/

/-- The fields in front of the opcode byte: of a legacy encoding whether 66 and REX are there and the bits of REX, else those of
the VEX or EVEX bytes. -/
inductive Front where
  | legacy (p66 rex r x b : Bool)
  | vex (v : VexBits)
  | evex (e : EvexBits)

/-- 66, then REX, in the order the model admits (30_encoding.md rules R53, R59). -/
def legacyPre (p66 rex r x b : Bool) : List Byte :=
  (if p66 then [0x66#8] else []) ++ (if rex then [rexByte r x b] else [])

/-- The last byte of a VEX encoding's leading bytes; its top bit is R in VEX2 and W in VEX3 (30_encoding.md rule R56). -/
def vexLast (top : Bool) (vvvv : BitVec 4) (l : Bool) : Byte :=
  BitVec.ofBool top ++ (~~~vvvv ++ (BitVec.ofBool l ++ 1#2))

/-- The second byte of VEX3. -/
def vex3Second (r x b : Bool) : Byte := BitVec.ofBool (!r) ++ (BitVec.ofBool (!x) ++ (BitVec.ofBool (!b) ++ 1#5))

/-- The byte P0 of EVEX (30_encoding.md rule R57). -/
def evexP0 (r x b r' : Bool) : Byte :=
  BitVec.ofBool (!r) ++ (BitVec.ofBool (!x) ++ (BitVec.ofBool (!b) ++ (BitVec.ofBool (!r') ++ 1#4)))

/-- The byte P1 of EVEX. -/
def evexP1 (w : Bool) (vvvv : BitVec 4) : Byte := BitVec.ofBool w ++ (~~~vvvv ++ (1#1 ++ 1#2))

/-- The byte P2 of EVEX. -/
def evexP2 (z : Bool) (ll : BitVec 2) (bc v' : Bool) (aaa : BitVec 3) : Byte :=
  BitVec.ofBool z ++ (ll ++ (BitVec.ofBool bc ++ (BitVec.ofBool (!v') ++ aaa)))

def vexHead (v : VexBits) : Head :=
  match v.form with
  | .vex2 => .vex2 (vexLast (!v.r) v.vvvv v.l)
  | .vex3 w => .vex3 (vex3Second v.r v.x v.b) (vexLast w v.vvvv v.l)

def evexHead (e : EvexBits) : Head :=
  .evex (evexP0 e.r e.x e.b e.r') (evexP1 e.w e.vvvv) (evexP2 e.z e.ll e.bc e.v' e.aaa)

def Front.pre : Front → List Byte
  | .legacy p66 rex r x b => legacyPre p66 rex r x b
  | .vex _ | .evex _ => []

def Front.head : Front → Head
  | .legacy _ _ _ _ _ => .legacy
  | .vex v => vexHead v
  | .evex e => evexHead e

/-- The fields have bytes: bits only where the form has room for them, and the fixed EVEX bits as they must be. -/
def Front.wf : Front → Bool
  | .legacy _ rex r x b => legacyWf rex r x b
  | .vex v => v.form.admits v.x v.b
  | .evex e => e.fixedOk

def Front.x : Front → Bool
  | .legacy _ _ _ x _ => x
  | .vex v => v.x
  | .evex e => e.x

def Front.b : Front → Bool
  | .legacy _ _ _ _ b => b
  | .vex v => v.b
  | .evex e => e.b

def Front.nonCanonical : Front → Opcode → RmField → Option PrefixBit
  | .legacy p66 _ r x b => legacyNonCanonical (!p66) (rexByte r x b)
  | .vex v => vexNonCanonical v
  | .evex e => evexNonCanonical e

def Front.invalid : Front → Opcode → RmField → Bool
  | .legacy _ _ _ _ _ | .vex _ => fun _ _ => false
  | .evex e => evexInvalid e

def Front.row : Front → Opcode → BitVec 3 → RmField → Byte → Decoded
  | .legacy p66 rex r _ b => legacyRow p66 rex r b
  | .vex v => vexRow v
  | .evex e => evexRow e

/-! ### The bytes of the fields are read as the fields -/

theorem legacyNonCanonical_congr {rex rex' : Byte} (h3 : bitOf rex 3 = bitOf rex' 3) (h2 : bitOf rex 2 = bitOf rex' 2)
    (h1 : bitOf rex 1 = bitOf rex' 1) (h0 : bitOf rex 0 = bitOf rex' 0) (mmx : Bool) :
    legacyNonCanonical mmx rex = legacyNonCanonical mmx rex' := by
  funext o rm
  simp only [legacyNonCanonical, h3, h2, h1, h0]

theorem bitOf_rexByte (r x b : Bool) :
    bitOf (rexByte r x b) 3 = false ∧ bitOf (rexByte r x b) 2 = r ∧ bitOf (rexByte r x b) 1 = x ∧
      bitOf (rexByte r x b) 0 = b := bitOf_rexWrxb false r x b

theorem legacyPre_prefixes (p66 rex r x b : Bool) : AllPrefixes (legacyPre p66 rex r x b) := by
  intro p hp
  simp only [legacyPre, List.mem_append] at hp
  obtain hp | hp := hp
  · split at hp
    · exact .inl (List.mem_singleton.1 hp ▸ rfl)
    · cases hp
  · split at hp
    · exact .inr (List.mem_singleton.1 hp ▸ isRex_rexWrxb false r x b)
    · cases hp

/-- Of the bytes rule R59 lists only 66 is there, and the REX byte is no legacy byte. -/
theorem legacyPre_contains (p66 rex r x b : Bool) :
    (legacyPre p66 rex r x b).contains 0x66#8 = p66 ∧ (legacyPre p66 rex r x b).contains 0xF0#8 = false ∧
      (legacyPre p66 rex r x b).contains 0xF2#8 = false ∧ (legacyPre p66 rex r x b).contains 0xF3#8 = false := by
  revert p66 rex r x b; decide

theorem legacyPre_allowed (p66 rex r x b : Bool) : firstNotAdmitted [] (legacyPre p66 rex r x b) = none := by
  revert p66 rex r x b; decide

theorem legacyPre_rex {rex r x b : Bool} (hwf : legacyWf rex r x b = true) (p66 : Bool) :
    (rexOf (legacyPre p66 rex r x b)).isSome = rex ∧
      bitOf ((rexOf (legacyPre p66 rex r x b)).getD 0#8) 3 = false ∧
      bitOf ((rexOf (legacyPre p66 rex r x b)).getD 0#8) 2 = r ∧
      bitOf ((rexOf (legacyPre p66 rex r x b)).getD 0#8) 1 = x ∧
      bitOf ((rexOf (legacyPre p66 rex r x b)).getD 0#8) 0 = b := by
  revert p66 rex r x b; decide

theorem vexLast_fields (top : Bool) (vvvv : BitVec 4) (l : Bool) :
    bitOf (vexLast top vvvv l) 7 = top ∧ (vexLast top vvvv l).extractLsb' 3 4 = ~~~vvvv ∧
      bitOf (vexLast top vvvv l) 2 = l ∧ (vexLast top vvvv l).extractLsb' 0 2 = 1#2 := by
  grind [vexLast, bitOf]

theorem vex3Second_fields (r x b : Bool) :
    bitOf (vex3Second r x b) 7 = !r ∧ bitOf (vex3Second r x b) 6 = !x ∧ bitOf (vex3Second r x b) 5 = !b ∧
      (vex3Second r x b).extractLsb' 0 5 = 1#5 := by
  revert r x b; decide

theorem evexP0_fields (r x b r' : Bool) :
    bitOf (evexP0 r x b r') 7 = !r ∧ bitOf (evexP0 r x b r') 6 = !x ∧ bitOf (evexP0 r x b r') 5 = !b ∧
      bitOf (evexP0 r x b r') 4 = !r' ∧ bitOf (evexP0 r x b r') 3 = false ∧
      (evexP0 r x b r').extractLsb' 0 3 = 1#3 := by
  revert r x b r'; decide

theorem evexP1_fields (w : Bool) (vvvv : BitVec 4) :
    bitOf (evexP1 w vvvv) 7 = w ∧ (evexP1 w vvvv).extractLsb' 3 4 = ~~~vvvv ∧ bitOf (evexP1 w vvvv) 2 = true ∧
      (evexP1 w vvvv).extractLsb' 0 2 = 1#2 := by
  revert w vvvv; decide

theorem evexP2_fields (z : Bool) (ll : BitVec 2) (bc v' : Bool) (aaa : BitVec 3) :
    bitOf (evexP2 z ll bc v' aaa) 7 = z ∧ (evexP2 z ll bc v' aaa).extractLsb' 5 2 = ll ∧
      bitOf (evexP2 z ll bc v' aaa) 4 = bc ∧ bitOf (evexP2 z ll bc v' aaa) 3 = !v' ∧
      (evexP2 z ll bc v' aaa).extractLsb' 0 3 = aaa := by
  grind [evexP2, bitOf]

theorem vex2Bits_vexLast (r : Bool) (vvvv : BitVec 4) (l : Bool) :
    vex2Bits (vexLast (!r) vvvv l) = ⟨.vex2, r, false, false, vvvv, l⟩ := by
  obtain ⟨h7, h3, h2, -⟩ := vexLast_fields (!r) vvvv l
  simp [vex2Bits, h7, h3, h2]

theorem vex3Bits_vexLast (w r x b : Bool) (vvvv : BitVec 4) (l : Bool) :
    vex3Bits (vex3Second r x b) (vexLast w vvvv l) = ⟨.vex3 w, r, x, b, vvvv, l⟩ := by
  obtain ⟨h7, h6, h5, -⟩ := vex3Second_fields r x b
  obtain ⟨h7', h3, h2, -⟩ := vexLast_fields w vvvv l
  simp [vex3Bits, h7, h6, h5, h7', h3, h2]

theorem evexBits_evexHead {e : EvexBits} (he : e.fixedOk = true) :
    evexBits (evexP0 e.r e.x e.b e.r') (evexP1 e.w e.vvvv) (evexP2 e.z e.ll e.bc e.v' e.aaa) = e := by
  obtain ⟨h7, h6, h5, h4, h3, -⟩ := evexP0_fields e.r e.x e.b e.r'
  obtain ⟨hw, hv, h2, -⟩ := evexP1_fields e.w e.vvvv
  obtain ⟨hz, hll, hbc, hv', haaa⟩ := evexP2_fields e.z e.ll e.bc e.v' e.aaa
  simp [evexBits, h7, h6, h5, h4, h3, hw, hv, h2, hz, hll, hbc, hv', haaa, ← he]

/-- The decoder reads the class `h` behind the prefixes `pre` as the fields `f`. Outside the legacy class the prefixes may be any:
they enter no field. -/
structure ReadsAs (pre : List Byte) (h : Head) (f : Front) : Prop where
  selects : h.selects
  extX : h.extX pre = f.x
  extB : h.extB pre = f.b
  nonCanonical : h.nonCanonical pre = f.nonCanonical
  row : h.row pre = f.row

theorem readsAs_vexHead {v : VexBits} (hv : v.form.admits v.x v.b = true) (pre : List Byte) :
    ReadsAs pre (vexHead v) (.vex v) := by
  obtain ⟨form, r, x, b, vvvv, l⟩ := v
  cases form with
  | vex2 =>
    simp only [VexForm.admits, Bool.and_eq_true, Bool.not_eq_true'] at hv
    obtain ⟨rfl, rfl⟩ := hv
    obtain ⟨-, -, -, hpp⟩ := vexLast_fields (!r) vvvv l
    have hbits := vex2Bits_vexLast r vvvv l
    exact ⟨hpp, rfl, rfl, congrArg vexNonCanonical hbits, congrArg vexRow hbits⟩
  | vex3 w =>
    obtain ⟨-, -, -, hmap⟩ := vex3Second_fields r x b
    obtain ⟨-, -, -, hpp⟩ := vexLast_fields w vvvv l
    have hbits := vex3Bits_vexLast w r x b vvvv l
    exact ⟨⟨hmap, hpp⟩, congrArg VexBits.x hbits, congrArg VexBits.b hbits, congrArg vexNonCanonical hbits,
      congrArg vexRow hbits⟩

theorem readsAs_evexHead {e : EvexBits} (he : e.fixedOk = true) (pre : List Byte) :
    ReadsAs pre (evexHead e) (.evex e) := by
  obtain ⟨-, -, -, -, -, hmap⟩ := evexP0_fields e.r e.x e.b e.r'
  obtain ⟨-, -, -, hpp⟩ := evexP1_fields e.w e.vvvv
  have hbits := evexBits_evexHead he
  exact ⟨⟨hmap, hpp⟩, congrArg EvexBits.x hbits, congrArg EvexBits.b hbits, congrArg evexNonCanonical hbits,
    congrArg evexRow hbits⟩

theorem readsAs_legacy {p66 rex r x b : Bool} (hwf : legacyWf rex r x b = true) :
    ReadsAs (legacyPre p66 rex r x b) .legacy (.legacy p66 rex r x b) := by
  obtain ⟨hsome, h3, h2, h1, h0⟩ := legacyPre_rex hwf p66
  obtain ⟨h66, -, -, -⟩ := legacyPre_contains p66 rex r x b
  obtain ⟨h3', h2', h1', h0'⟩ := bitOf_rexByte r x b
  refine ⟨trivial, h1, h0, ?_, ?_⟩
  · rw [Head.nonCanonical, h66]
    exact legacyNonCanonical_congr (h3.trans h3'.symm) (h2.trans h2'.symm) (h1.trans h1'.symm) (h0.trans h0'.symm) _
  · rw [Head.row, h66, hsome, h2, h0]
    rfl

theorem Front.readsAs {f : Front} (hf : f.wf = true) : ReadsAs f.pre f.head f := by
  cases f with
  | legacy => exact readsAs_legacy hf
  | vex => exact readsAs_vexHead hf []
  | evex => exact readsAs_evexHead hf []

theorem Front.prefixes (f : Front) : AllPrefixes f.pre := by
  cases f with
  | legacy p66 rex r x b => exact legacyPre_prefixes p66 rex r x b
  | vex | evex => exact allPrefixes_nil

theorem Front.allowed (f : Front) : firstNotAdmitted [] f.pre = none := by
  cases f with
  | legacy => exact legacyPre_allowed ..
  | vex | evex => rfl

theorem Front.not_foreign (f : Front) : f.head.foreign f.pre = false := by
  cases f with
  | legacy p66 rex r x b =>
    obtain ⟨-, -, h2, h3⟩ := legacyPre_contains p66 rex r x b
    exact Bool.or_eq_false_iff.2 ⟨h2, h3⟩
  | vex v => obtain ⟨form, r, x, b, vvvv, l⟩ := v; cases form <;> rfl
  | evex => rfl

theorem Front.invalid_eq {f : Front} (hf : f.wf = true) (o : Opcode) (rm : RmField) :
    f.head.invalid f.pre o rm = f.invalid o rm := by
  cases f with
  | legacy p66 rex r x b =>
    obtain ⟨-, h0, -, -⟩ := legacyPre_contains p66 rex r x b
    exact h0
  | vex v => obtain ⟨form, r, x, b, vvvv, l⟩ := v; cases form <;> rfl
  | evex e => exact congrArg (evexInvalid · o rm) (evexBits_evexHead hf)

/-! ### Nothing else is admitted -/

theorem eq_0x66_of_isLegacyByte {p : Byte} (hp : isLegacyByte p = true) (hr : isRefusedByte p = false)
    (h0 : p ≠ 0xF0#8) (h2 : p ≠ 0xF2#8) (h3 : p ≠ 0xF3#8) : p = 0x66#8 := by
  simp only [isLegacyByte, isRefusedByte, Bool.or_eq_true, Bool.or_eq_false_iff, beq_iff_eq, beq_eq_false_iff_ne] at hp hr
  tauto

/-- A REX byte with W clear is written by its other bits. -/
theorem eq_rexByte {p : Byte} (h : isRex p = true) (hw : bitOf p 3 = false) :
    p = rexByte (bitOf p 2) (bitOf p 1) (bitOf p 0) := by
  conv_lhs => rw [eq_rexWrxb h, hw]
  rfl

theorem not_isRefusedByte_of_isRex {p : Byte} (h : isRex p = true) : isRefusedByte p = false := by
  have hlegacy := not_isLegacyByte_of_isRex h
  simp only [isLegacyByte, isRefusedByte, Bool.or_eq_false_iff] at hlegacy ⊢
  tauto

/-- None of the prefixes is admitted behind a REX byte. -/
theorem eq_nil_of_rex {seen : List Byte} {p : Byte} {pre : List Byte} (h : isRex p = true)
    (hallowed : firstNotAdmitted seen (p :: pre) = none) : pre = [] := by
  cases pre with
  | nil => rfl
  | cons q pre => simp [firstNotAdmitted, h, not_isRefusedByte_of_isRex h, not_isLegacyByte_of_isRex h] at hallowed

theorem firstNotAdmitted_cons_none {seen : List Byte} {p : Byte} {pre : List Byte} (hp : isRex p = false)
    (h : firstNotAdmitted seen (p :: pre) = none) :
    isRefusedByte p = false ∧ (isLegacyByte p = true → seen.contains p = false) ∧
      firstNotAdmitted (p :: seen) pre = none := by
  cases pre with
  | nil =>
    simp only [firstNotAdmitted] at h ⊢
    grind
  | cons q pre =>
    simp only [firstNotAdmitted, hp] at h
    grind

/-- The prefixes admitted in front of a legacy row are 66 and REX, each at most once and in this order. -/
theorem eq_legacyPre {pre : List Byte} (hpre : AllPrefixes pre) (hallowed : firstNotAdmitted [] pre = none)
    (h0 : pre.contains 0xF0#8 = false) (h2 : pre.contains 0xF2#8 = false) (h3 : pre.contains 0xF3#8 = false)
    (hw : bitOf ((rexOf pre).getD 0#8) 3 = false) :
    ∃ p66 rex r x b, legacyWf rex r x b = true ∧ pre = legacyPre p66 rex r x b := by
  have h66 : ∀ p ∈ pre, isRex p = false → isRefusedByte p = false → p = 0x66#8 := fun p hp hrex href => by
    have hmem : ∀ q, pre.contains q = false → p ≠ q := fun q hq hpq => by
      subst hpq
      simp [hp] at hq
    have hlegacy : isLegacyByte p = true := (hpre p hp).resolve_right (by simp [hrex])
    exact eq_0x66_of_isLegacyByte hlegacy href (hmem _ h0) (hmem _ h2) (hmem _ h3)
  cases pre with
  | nil => exact ⟨false, false, false, false, false, rfl, rfl⟩
  | cons p pre =>
    by_cases hp : isRex p = true
    · obtain rfl := eq_nil_of_rex hp hallowed
      simp only [rexOf, hp, if_true, Option.getD_some] at hw
      exact ⟨false, true, _, _, _, rfl, congrArg (· :: []) (eq_rexByte hp hw)⟩
    · simp only [Bool.not_eq_true] at hp
      obtain ⟨href, -, hallowed'⟩ := firstNotAdmitted_cons_none hp hallowed
      obtain rfl := h66 p (by simp) hp href
      cases pre with
      | nil => exact ⟨true, false, false, false, false, rfl, rfl⟩
      | cons q pre =>
        by_cases hq : isRex q = true
        · obtain rfl := eq_nil_of_rex hq hallowed'
          simp only [rexOf, hq, if_true, Option.getD_some] at hw
          exact ⟨true, true, _, _, _, rfl, congrArg (0x66#8 :: · :: []) (eq_rexByte hq hw)⟩
        · simp only [Bool.not_eq_true] at hq
          obtain ⟨hrefq, hseen, -⟩ := firstNotAdmitted_cons_none hq hallowed'
          obtain rfl := h66 q (by simp) hq hrefq
          exact absurd (hseen rfl) (by decide)

theorem eq_vexLast {v : Byte} (h : v.extractLsb' 0 2 = 1#2) :
    v = vexLast (bitOf v 7) (~~~(v.extractLsb' 3 4)) (bitOf v 2) := by
  rw [vexLast, ← h]
  grind [bitOf]

theorem eq_vex3Second {v : Byte} (h : v.extractLsb' 0 5 = 1#5) :
    v = vex3Second (!bitOf v 7) (!bitOf v 6) (!bitOf v 5) := by
  rw [vex3Second, ← h]
  grind [bitOf]

theorem eq_evexP0 {p : Byte} (h : p.extractLsb' 0 3 = 1#3) (h3 : bitOf p 3 = false) :
    p = evexP0 (!bitOf p 7) (!bitOf p 6) (!bitOf p 5) (!bitOf p 4) := by
  have hlow : (1#4 : BitVec 4) = BitVec.ofBool (bitOf p 3) ++ p.extractLsb' 0 3 := by rw [h, h3]; rfl
  rw [evexP0, hlow]
  grind [bitOf]

theorem eq_evexP1 {q : Byte} (h : q.extractLsb' 0 2 = 1#2) (h2 : bitOf q 2 = true) :
    q = evexP1 (bitOf q 7) (~~~(q.extractLsb' 3 4)) := by
  have hone : (1#1 : BitVec 1) = BitVec.ofBool (bitOf q 2) := by rw [h2]; rfl
  rw [evexP1, hone, ← h]
  grind [bitOf]

theorem eq_evexP2 (t : Byte) :
    t = evexP2 (bitOf t 7) (t.extractLsb' 5 2) (bitOf t 4) (!bitOf t 3) (t.extractLsb' 0 3) := by
  grind [evexP2, bitOf]

theorem eq_vexHead_of_vex2 {v : Byte} (h : v.extractLsb' 0 2 = 1#2) : Head.vex2 v = vexHead (vex2Bits v) := by
  simp only [vexHead, vex2Bits, Bool.not_not, ← eq_vexLast h]

theorem eq_vexHead_of_vex3 {v w : Byte} (hv : v.extractLsb' 0 5 = 1#5) (hw : w.extractLsb' 0 2 = 1#2) :
    Head.vex3 v w = vexHead (vex3Bits v w) := by
  simp only [vexHead, vex3Bits, ← eq_vexLast hw, ← eq_vex3Second hv]

theorem eq_evexHead {p q t : Byte} (hp : p.extractLsb' 0 3 = 1#3) (hq : q.extractLsb' 0 2 = 1#2)
    (hfixed : (evexBits p q t).fixedOk = true) : Head.evex p q t = evexHead (evexBits p q t) := by
  simp only [evexBits, Bool.and_eq_true, Bool.not_eq_true'] at hfixed
  obtain ⟨hp3, hq2⟩ := hfixed
  simp only [evexHead, evexBits, ← eq_evexP0 hp hp3, ← eq_evexP1 hq hq2, ← eq_evexP2]

/-- Where nothing is refused, the bytes in front of the opcode byte are those of some fields. -/
theorem exists_front {pre : List Byte} {h : Head} (hpre : AllPrefixes pre) (hsel : h.selects)
    (hforeign : h.foreign pre = false) {o : Opcode} {rm : RmField} (hcanon : h.nonCanonical pre o rm = none)
    (hallowed : firstNotAdmitted [] pre = none) (hvalid : h.invalid pre o rm = false) :
    ∃ f : Front, f.wf = true ∧ pre = f.pre ∧ h = f.head := by
  cases h with
  | legacy =>
    obtain ⟨h2, h3⟩ := Bool.or_eq_false_iff.1 hforeign
    obtain ⟨hw, -⟩ := legacyNonCanonical_eq_none_iff.1 hcanon
    obtain ⟨p66, rex, r, x, b, hwf, hpre⟩ := eq_legacyPre hpre hallowed hvalid h2 h3 hw
    exact ⟨.legacy p66 rex r x b, hwf, hpre, rfl⟩
  | vex2 v =>
    exact ⟨.vex (vex2Bits v), rfl, by simpa [Head.invalid, Front.pre] using hvalid, eq_vexHead_of_vex2 hsel⟩
  | vex3 v w =>
    exact ⟨.vex (vex3Bits v w), rfl, by simpa [Head.invalid, Front.pre] using hvalid, eq_vexHead_of_vex3 hsel.1 hsel.2⟩
  | evex p q t =>
    simp only [Head.invalid, evexInvalid, Bool.or_eq_false_iff, Bool.not_eq_false'] at hvalid
    obtain ⟨hnil, ⟨⟨hfixed, -⟩, -⟩, -⟩ := hvalid
    exact ⟨.evex (evexBits p q t), hfixed, List.isEmpty_iff.1 hnil, eq_evexHead hsel.1 hsel.2 hfixed⟩

end Sys2Proof
end

section
/-! PROOFS. An encoding as its fields, in front of the opcode byte and behind. Admitted fields decode to the row they select, and
bytes that decode to an instruction are those of admitted fields. -/

namespace Sys2Proof

open Sys2Proof.Claims

/-- The fields of an encoding. -/
structure Spelling where
  front : Front
  op : Opcode
  reg : BitVec 3
  rm : RmField
  imm : Byte

/-- The bytes of an encoding, with what follows. -/
def Spelling.bytes (f : Spelling) (rest : List Byte) : List Byte :=
  f.front.pre ++ (f.front.head.bytes ++ opBody f.op f.reg f.rm f.imm rest)

def Spelling.row (f : Spelling) : Decoded := f.front.row f.op f.reg f.rm f.imm

/-- The decoder answers the row: the fields have bytes, all bits are canonical and the encoding is valid. -/
structure Spelling.Admitted (f : Spelling) : Prop where
  front : f.front.wf = true
  body : BodyFields f.front.x f.front.b f.op f.reg f.rm f.imm
  canonical : f.front.nonCanonical f.op f.rm = none
  valid : f.front.invalid f.op f.rm = false

theorem Spelling.bytes_append (f : Spelling) (rest rest' : List Byte) :
    f.bytes rest ++ rest' = f.bytes (rest ++ rest') := by
  simp [Spelling.bytes, opBody_append]

/-- Behind prefixes and a class that are read as fields, the verdict is the one on these fields. -/
theorem ReadsAs.decode {pre : List Byte} {h : Head} {f : Front} (hreads : ReadsAs pre h f) (hpre : AllPrefixes pre)
    (hforeign : h.foreign pre = false) {o : Opcode} {reg : BitVec 3} {rm : RmField} {imm : Byte}
    (hbody : BodyFields f.x f.b o reg rm imm) (rest : List Byte) :
    decode (pre ++ (h.bytes ++ opBody o reg rm imm rest)) =
      verdictOf (f.nonCanonical o rm) (firstNotAdmitted [] pre) (h.invalid pre o rm) (f.row o reg rm imm) := by
  rw [decode_head hpre hreads.selects, hforeign, if_neg (by decide), hreads.extX, hreads.extB, hbody.decodeBody,
    h.verdict_eq, hreads.nonCanonical, hreads.row]

/-- Admitted fields decode to their row, whatever follows. -/
theorem Spelling.Admitted.decode {f : Spelling} (hf : f.Admitted) (rest : List Byte) :
    decode (f.bytes rest) = f.row := by
  have hreads := Front.readsAs hf.front
  rw [Spelling.bytes, hreads.decode f.front.prefixes f.front.not_foreign hf.body, hf.canonical, f.front.allowed,
    Front.invalid_eq hf.front, hf.valid, verdictOf_row, Spelling.row]

/-- With one more of the prefixes in front the same fields are read, if in the legacy class neither the REX byte that counts nor the
choice of the 66 column changes. -/
theorem ReadsAs.cons {pre : List Byte} {h : Head} {f : Front} (hreads : ReadsAs pre h f) {p : Byte}
    (hlegacy : h = .legacy → rexOf (p :: pre) = rexOf pre ∧ (p :: pre).contains 0x66#8 = pre.contains 0x66#8) :
    ReadsAs (p :: pre) h f := by
  obtain ⟨hsel, hx, hb, hcanon, hrow⟩ := hreads
  cases h with
  | legacy =>
    obtain ⟨hrex, h66⟩ := hlegacy rfl
    refine ⟨hsel, ?_, ?_, ?_, ?_⟩
    · rwa [Head.extX, hrex]
    · rwa [Head.extB, hrex]
    · rwa [Head.nonCanonical, hrex, h66]
    · rwa [Head.row, hrex, h66]
  | vex2 | vex3 | evex => exact ⟨hsel, hx, hb, hcanon, hrow⟩

/-- Admitted fields behind one more of the prefixes: what is left to decide is whether the prefixes are admitted and valid. -/
theorem Spelling.Admitted.decode_cons {f : Spelling} (hf : f.Admitted) {p : Byte}
    (hp : isLegacyByte p = true ∨ isRex p = true) (hforeign : f.front.head.foreign (p :: f.front.pre) = false)
    (hlegacy : f.front.head = .legacy → rexOf (p :: f.front.pre) = rexOf f.front.pre ∧
      (p :: f.front.pre).contains 0x66#8 = f.front.pre.contains 0x66#8) (rest : List Byte) :
    Sys2Proof.decode (p :: f.bytes rest) =
      verdictOf none (firstNotAdmitted [] (p :: f.front.pre)) (f.front.head.invalid (p :: f.front.pre) f.op f.rm)
        f.row := by
  have hreads := (Front.readsAs hf.front).cons hlegacy
  have hverdict := hreads.decode (allPrefixes_cons hp f.front.prefixes) hforeign hf.body rest
  rwa [hf.canonical] at hverdict

/-- Bytes that decode to an instruction are those of admitted fields, with anything behind. -/
theorem exists_spelling {bs : List Byte} {i : Instr} (h : decode bs = .ok i) :
    ∃ (f : Spelling) (rest : List Byte), f.Admitted ∧ bs = f.bytes rest ∧ f.row = .ok i := by
  obtain hmore | hout | ⟨pre, hd, tl, hpre, hsel, hforeign, rfl⟩ := decode_cases bs
  · rw [hmore] at h; cases h
  · rw [← List.append_nil bs, hout []] at h; cases h
  rw [decode_head hpre hsel, hforeign, if_neg (by decide)] at h
  obtain hmore | hout | ⟨o, reg, rm, imm, rest, hbody, rfl, hverdict⟩ :=
    decodeBody_cases (hd.extX pre) (hd.extB pre) (hd.verdict pre) tl
  · rw [hmore] at h; cases h
  · rw [← List.append_nil tl, hout []] at h; cases h
  rw [hverdict, hd.verdict_eq] at h
  obtain ⟨hcanon, hallowed, hvalid, hrow⟩ := verdictOf_eq_ok h
  obtain ⟨front, hwf, rfl, rfl⟩ := exists_front hpre hsel hforeign hcanon hallowed hvalid
  have hreads := Front.readsAs hwf
  rw [hreads.extX, hreads.extB] at hbody
  rw [hreads.nonCanonical] at hcanon
  rw [Front.invalid_eq hwf] at hvalid
  rw [hreads.row] at hrow
  exact ⟨⟨front, o, reg, rm, imm⟩, rest, ⟨hwf, hbody, hcanon, hvalid⟩, rfl, hrow⟩

end Sys2Proof
end

section
/-! PROOFS. The encoding of each instruction as fields: the encoder writes these fields, a well-formed instruction has admitted ones,
and admitted fields select the instruction they are of. So decoding and encoding are inverse to each other. -/

namespace Sys2Proof

open Sys2Proof.Claims

/-! ### Operands as fields -/

/-- The operand as ModRM, SIB and displacement name it, without extension bits. -/
def RegMem.field {n : Nat} : RegMem n → RmField
  | .reg r => .reg (r.extractLsb' 0 3)
  | .mem m => .mem m

def Source.field : Source → RmField
  | .reg r => .reg (r.extractLsb' 0 3)
  | .mem m | .bcst m => .mem m

theorem RegMem.bodyBytes_code {n : Nat} (c : RegMem n) (o : Opcode) (reg : BitVec 3) (imm : List Byte) :
    bodyBytes o reg c.code imm = bodyBytes o reg (rmCode c.field) imm := by cases c <;> rfl

theorem Source.bodyBytes_code (c : Source) (o : Opcode) (reg : BitVec 3) (imm : List Byte) :
    bodyBytes o reg c.code imm = bodyBytes o reg (rmCode c.field) imm := by cases c <;> rfl

theorem RegMem.rmSpelt_field {n : Nat} (c : RegMem n) : rmSpelt c.field = c.memWf := by cases c <;> rfl

theorem Source.rmSpelt_field (c : Source) : rmSpelt c.field = c.memWf := by cases c <;> rfl

theorem RegMem.setExt_field {n : Nat} (c : RegMem n) : c.field.setExt c.code.x c.code.b = c.field := by
  cases c with
  | reg r => rfl
  | mem m =>
    simp only [RegMem.field, RegMem.code, Mem.code_x, Mem.code_b, RmField.setExt, Mem.setExt_own]

theorem Source.setExt_field (c : Source) : c.field.setExt c.code.x c.code.b = c.field := by
  cases c with
  | reg r => rfl
  | mem m | bcst m =>
    simp only [Source.field, Source.code, Mem.code_x, Mem.code_b, RmField.setExt, Mem.setExt_own]

theorem RegMem.extB_eq {n : Nat} (c : RegMem n) : c.extB = c.code.b := by
  cases c with
  | reg r => rfl
  | mem m => exact m.code_b.symm

/-- Only a register of five number bits takes X for itself. -/
theorem RegMem.extX_eq {n : Nat} (hn : n ≤ 4) (c : RegMem n) : c.extX = c.code.x := by
  cases c with
  | reg r => exact (BitVec.getLsbD_of_ge r 4 hn).symm
  | mem m => exact m.code_x.symm

theorem RegMem.hasSib_of_x {n : Nat} (hn : n ≤ 4) {c : RegMem n} (h : c.code.x = true) : c.field.hasSib = true := by
  rw [← c.extX_eq hn] at h
  cases c with
  | reg r => cases h
  | mem m => exact m.hasSib_of_extX h

theorem RegMem.names_of_x {n : Nat} {c : RegMem n} (h : c.code.x = true) :
    c.field.isReg = true ∨ c.field.hasSib = true := by
  cases c with
  | reg r => exact .inl rfl
  | mem m => exact .inr (m.hasSib_of_extX (m.code_x ▸ h))

theorem Source.names_of_x {c : Source} (h : c.code.x = true) : c.field.isReg = true ∨ c.field.hasSib = true := by
  cases c with
  | reg r => exact .inl rfl
  | mem m | bcst m => exact .inr (m.hasSib_of_extX (m.code_x ▸ h))

theorem RegMem.not_lacksBase_of_b {n : Nat} {c : RegMem n} (h : c.code.b = true) : c.field.lacksBase = false := by
  cases c with
  | reg r => rfl
  | mem m => exact m.not_lacksBase_of_extB (m.code_b ▸ h)

theorem Source.not_lacksBase_of_b {c : Source} (h : c.code.b = true) : c.field.lacksBase = false := by
  cases c with
  | reg r => rfl
  | mem m | bcst m => exact m.not_lacksBase_of_extB (m.code_b ▸ h)

/-- An MMX register has no extension bit at all. -/
theorem RegMem.not_isReg_of_b {c : RegMem 3} (h : c.code.b = true) : c.field.isReg = false := by
  cases c with
  | reg r => exact absurd h (by simp [RegMem.code, BitVec.getLsbD_of_ge])
  | mem m => rfl

theorem RegMem.field_mm (c : RegMem 3) : c.field.mm = c := by
  cases c <;> simp [RegMem.field, RmField.mm]

theorem RegMem.field_xmm (c : RegMem 4) : c.field.xmm c.code.b = c := by
  cases c <;> simp [RegMem.field, RmField.xmm, RegMem.code]

theorem RegMem.field_zmm (c : RegMem 5) : c.field.zmm c.code.x c.code.b = c := by
  cases c <;> simp [RegMem.field, RmField.zmm, RegMem.code]

theorem Source.field_source (c : Source) : c.field.source c.code.x c.code.b c.isBcst = c := by
  cases c <;> simp [Source.field, RmField.source, Source.code, Source.isBcst]

/-- An operand, given by its fields, its code and its well-formedness, is what `rm`, X and B spell. -/
structure Spells (field : RmField) (code : RmCode) (memWf : Bool) (rm : RmField) (x b : Bool) : Prop where
  field : field = rm
  x : code.x = x
  b : code.b = b
  memWf : memWf = true

theorem RmField.spells_mm {rm : RmField} {x b : Bool} (hspelt : rmSpelt rm = true) (hext : rm.setExt x b = rm)
    (hx : x = true → rm.hasSib = true) (hb : b = true → rm.isReg = false ∧ rm.lacksBase = false) :
    Spells rm.mm.field rm.mm.code rm.mm.memWf rm x b := by
  cases rm with
  | reg n =>
    have hx : x = false := by simpa [RmField.hasSib] using hx
    have hb : b = false := by simpa [RmField.isReg] using hb
    subst hx hb
    exact ⟨by simp [RmField.mm, RegMem.field], BitVec.getLsbD_of_ge n 4 (by decide), BitVec.getLsbD_of_ge n 3 (by decide),
      rfl⟩
  | mem m =>
    obtain ⟨hx, hb⟩ := Mem.ext_of_setExt_eq (RmField.mem.inj hext) hx fun h => (hb h).2
    exact ⟨rfl, m.code_x.trans hx, m.code_b.trans hb, hspelt⟩

theorem RmField.spells_xmm {rm : RmField} {x b : Bool} (hspelt : rmSpelt rm = true) (hext : rm.setExt x b = rm)
    (hx : x = true → rm.hasSib = true) (hb : b = true → rm.lacksBase = false) :
    Spells (rm.xmm b).field (rm.xmm b).code (rm.xmm b).memWf rm x b := by
  cases rm with
  | reg n =>
    have hx : x = false := by simpa [RmField.hasSib] using hx
    subst hx
    exact ⟨by simp [RmField.xmm, RegMem.field], BitVec.getLsbD_of_ge _ 4 (by decide), by simp [RmField.xmm, RegMem.code],
      rfl⟩
  | mem m =>
    obtain ⟨hx, hb⟩ := Mem.ext_of_setExt_eq (RmField.mem.inj hext) hx hb
    exact ⟨rfl, m.code_x.trans hx, m.code_b.trans hb, hspelt⟩

theorem RmField.spells_zmm {rm : RmField} {x b : Bool} (hspelt : rmSpelt rm = true) (hext : rm.setExt x b = rm)
    (hx : x = true → rm.isReg = true ∨ rm.hasSib = true) (hb : b = true → rm.lacksBase = false) :
    Spells (rm.zmm x b).field (rm.zmm x b).code (rm.zmm x b).memWf rm x b := by
  cases rm with
  | reg n =>
    exact ⟨by simp [RmField.zmm, RegMem.field], by simp [RmField.zmm, RegMem.code], by simp [RmField.zmm, RegMem.code],
      rfl⟩
  | mem m =>
    obtain ⟨hx, hb⟩ := Mem.ext_of_setExt_eq (RmField.mem.inj hext) (fun h => (hx h).resolve_left nofun) hb
    exact ⟨rfl, m.code_x.trans hx, m.code_b.trans hb, hspelt⟩

theorem RmField.spells_source {rm : RmField} {x b : Bool} (hspelt : rmSpelt rm = true) (hext : rm.setExt x b = rm)
    (hx : x = true → rm.isReg = true ∨ rm.hasSib = true) (hb : b = true → rm.lacksBase = false) (bc : Bool) :
    Spells (rm.source x b bc).field (rm.source x b bc).code (rm.source x b bc).memWf rm x b := by
  cases rm with
  | reg n =>
    exact ⟨by simp [RmField.source, Source.field], by simp [RmField.source, Source.code],
      by simp [RmField.source, Source.code], rfl⟩
  | mem m =>
    obtain ⟨hx, hb⟩ := Mem.ext_of_setExt_eq (RmField.mem.inj hext) (fun h => (hx h).resolve_left nofun) hb
    cases bc with
    | false => exact ⟨rfl, m.code_x.trans hx, m.code_b.trans hb, hspelt⟩
    | true => exact ⟨rfl, m.code_x.trans hx, m.code_b.trans hb, hspelt⟩

/-- The broadcast bit is free only on a memory operand. -/
theorem RmField.isBcst_source {rm : RmField} {bc : Bool} (h : bc = true → rm.isReg = false) (x b : Bool) :
    (rm.source x b bc).isBcst = bc := by
  cases rm with
  | reg n =>
    have hbc : bc = false := by simpa [RmField.isReg] using h
    exact hbc.symm
  | mem m => cases bc <;> rfl

/-! ### The fields of an instruction, by operand form -/

/-- Op/En A. -/
def spellLegacyRm {n : Nat} (p66 rex : Bool) (o : Opcode) (d : BitVec 4) (c : RegMem n) : Spelling :=
  ⟨.legacy p66 rex (d.getLsbD 3) c.code.x c.code.b, o, d.extractLsb' 0 3, c.field, 0#8⟩

/-- Op/En B. -/
def spellLegacyImm (p66 rex : Bool) (o : Opcode) (d : BitVec 4) (imm : Byte) : Spelling :=
  ⟨.legacy p66 rex false false (d.getLsbD 3), o, 4#3, .reg (d.extractLsb' 0 3), imm⟩

/-- Op/En C. -/
def spellVexRm (f : VexForm) (l : Bool) (o : Opcode) (d s : BitVec 4) (c : RegMem 4) : Spelling :=
  ⟨.vex ⟨f, d.getLsbD 3, c.code.x, c.code.b, s, l⟩, o, d.extractLsb' 0 3, c.field, 0#8⟩

/-- Op/En D. -/
def spellVexImm (f : VexForm) (l : Bool) (o : Opcode) (d s : BitVec 4) (imm : Byte) : Spelling :=
  ⟨.vex ⟨f, false, false, s.getLsbD 3, d, l⟩, o, 4#3, .reg (s.extractLsb' 0 3), imm⟩

/-- Op/En G. -/
def spellEvexRm (ll : BitVec 2) (w : Bool) (o : Opcode) (m : Mask) (d s : BitVec 5) (c : RegMem 5) : Spelling :=
  ⟨.evex ⟨d.getLsbD 3, c.code.x, c.code.b, d.getLsbD 4, w, s.extractLsb' 0 4, m.z, ll, false, s.getLsbD 4, m.k, true⟩,
    o, d.extractLsb' 0 3, c.field, 0#8⟩

/-- Op/En E and F. -/
def spellEvexImm (ll : BitVec 2) (w bc : Bool) (o : Opcode) (m : Mask) (d : BitVec 5) (x b : Bool) (rm : RmField)
    (imm : Byte) : Spelling :=
  ⟨.evex ⟨false, x, b, false, w, d.extractLsb' 0 4, m.z, ll, bc, d.getLsbD 4, m.k, true⟩, o, 4#3, rm, imm⟩

/-- The fields of an instruction's encoding (30_encoding.md rules R50 to R58). -/
def Instr.spelling : Instr → Spelling
  | .psrawMmRm rex d c => spellLegacyRm false rex .e1 (d.setWidth 4) c
  | .psrawXmmRm rex d c => spellLegacyRm true rex .e1 d c
  | .psrawMmImm rex d i => spellLegacyImm false rex .i71 (d.setWidth 4) i
  | .psrawXmmImm rex d i => spellLegacyImm true rex .i71 d i
  | .psradMmRm rex d c => spellLegacyRm false rex .e2 (d.setWidth 4) c
  | .psradXmmRm rex d c => spellLegacyRm true rex .e2 d c
  | .psradMmImm rex d i => spellLegacyImm false rex .i72 (d.setWidth 4) i
  | .psradXmmImm rex d i => spellLegacyImm true rex .i72 d i
  | .vpsrawXmmRm f d s c => spellVexRm f false .e1 d s c
  | .vpsrawXmmImm f d s i => spellVexImm f false .i71 d s i
  | .vpsradXmmRm f d s c => spellVexRm f false .e2 d s c
  | .vpsradXmmImm f d s i => spellVexImm f false .i72 d s i
  | .vpsrawYmmRm f d s c => spellVexRm f true .e1 d s c
  | .vpsrawYmmImm f d s i => spellVexImm f true .i71 d s i
  | .vpsradYmmRm f d s c => spellVexRm f true .e2 d s c
  | .vpsradYmmImm f d s i => spellVexImm f true .i72 d s i
  | .evpsrawXmmRm w m d s c => spellEvexRm 0#2 w .e1 m d s c
  | .evpsrawYmmRm w m d s c => spellEvexRm 1#2 w .e1 m d s c
  | .evpsrawZmmRm w m d s c => spellEvexRm 2#2 w .e1 m d s c
  | .evpsrawXmmImm w m d s i => spellEvexImm 0#2 w false .i71 m d s.code.x s.code.b s.field i
  | .evpsrawYmmImm w m d s i => spellEvexImm 1#2 w false .i71 m d s.code.x s.code.b s.field i
  | .evpsrawZmmImm w m d s i => spellEvexImm 2#2 w false .i71 m d s.code.x s.code.b s.field i
  | .evpsradXmmRm m d s c => spellEvexRm 0#2 false .e2 m d s c
  | .evpsradYmmRm m d s c => spellEvexRm 1#2 false .e2 m d s c
  | .evpsradZmmRm m d s c => spellEvexRm 2#2 false .e2 m d s c
  | .evpsradXmmImm m d s i => spellEvexImm 0#2 false s.isBcst .i72 m d s.code.x s.code.b s.field i
  | .evpsradYmmImm m d s i => spellEvexImm 1#2 false s.isBcst .i72 m d s.code.x s.code.b s.field i
  | .evpsradZmmImm m d s i => spellEvexImm 2#2 false s.isBcst .i72 m d s.code.x s.code.b s.field i
  | .evpsraqXmmRm m d s c => spellEvexRm 0#2 true .e2 m d s c
  | .evpsraqYmmRm m d s c => spellEvexRm 1#2 true .e2 m d s c
  | .evpsraqZmmRm m d s c => spellEvexRm 2#2 true .e2 m d s c
  | .evpsraqXmmImm m d s i => spellEvexImm 0#2 true s.isBcst .i72 m d s.code.x s.code.b s.field i
  | .evpsraqYmmImm m d s i => spellEvexImm 1#2 true s.isBcst .i72 m d s.code.x s.code.b s.field i
  | .evpsraqZmmImm m d s i => spellEvexImm 2#2 true s.isBcst .i72 m d s.code.x s.code.b s.field i

/-! ### The encoder writes the fields -/

theorem encodeLegacy_eq_bytes {p66 rex r x b : Bool} {o : Opcode} {reg : BitVec 3} {rm : RmField} {imm : Byte}
    {code : RmCode} {tail : List Byte} (hx : code.x = x) (hb : code.b = b)
    (hbody : bodyBytes o reg code tail = opBody o reg rm imm []) :
    encodeLegacy p66 rex r o reg code tail = Spelling.bytes ⟨.legacy p66 rex r x b, o, reg, rm, imm⟩ [] := by
  subst hx hb
  simp [encodeLegacy, hbody, Spelling.bytes, Front.pre, legacyPre, Front.head, Head.bytes]

theorem encodeVex_eq_bytes {f : VexForm} {l r x b : Bool} {vvvv : BitVec 4} {o : Opcode} {reg : BitVec 3} {rm : RmField}
    {imm : Byte} {code : RmCode} {tail : List Byte} (hx : code.x = x) (hb : code.b = b)
    (hbody : bodyBytes o reg code tail = opBody o reg rm imm []) :
    encodeVex f l r vvvv o reg code tail = Spelling.bytes ⟨.vex ⟨f, r, x, b, vvvv, l⟩, o, reg, rm, imm⟩ [] := by
  subst hx hb
  cases f with
  | vex2 | vex3 w => simp only [encodeVex, hbody]; rfl

theorem encodeEvex_eq_bytes {ll : BitVec 2} {w bc : Bool} {m : Mask} {r' r x b : Bool} {v5 : BitVec 5} {o : Opcode}
    {reg : BitVec 3} {rm : RmField} {imm : Byte} {code : RmCode} {tail : List Byte} (hx : code.x = x) (hb : code.b = b)
    (hbody : bodyBytes o reg code tail = opBody o reg rm imm []) :
    encodeEvex ll w bc m r' r v5 o reg code tail =
      Spelling.bytes
        ⟨.evex ⟨r, x, b, r', w, v5.extractLsb' 0 4, m.z, ll, bc, v5.getLsbD 4, m.k, true⟩, o, reg, rm, imm⟩ [] := by
  subst hx hb
  simp only [encodeEvex, hbody]
  rfl

theorem bodyBytes_eq_opBody {o : Opcode} (ho : o.isImm = false) (reg : BitVec 3) (rm : RmField) (imm : Byte) :
    bodyBytes o reg (rmCode rm) [] = opBody o reg rm imm [] := by
  simp [opBody, ho]

theorem bodyBytes_imm_eq_opBody {o : Opcode} (ho : o.isImm = true) (reg : BitVec 3) (rm : RmField) (imm : Byte) :
    bodyBytes o reg (rmCode rm) [imm] = opBody o reg rm imm [] := by
  simp [opBody, ho]

theorem encodeLegacyRm_eq_bytes {n : Nat} {o : Opcode} (ho : o.isImm = false) (p66 rex : Bool) (d : BitVec 4)
    (c : RegMem n) : encodeLegacyRm p66 rex o d c.code = (spellLegacyRm p66 rex o d c).bytes [] :=
  encodeLegacy_eq_bytes rfl rfl ((c.bodyBytes_code ..).trans (bodyBytes_eq_opBody ho ..))

theorem encodeLegacyImm_eq_bytes {o : Opcode} (ho : o.isImm = true) (p66 rex : Bool) (d : BitVec 4) (imm : Byte) :
    encodeLegacyImm p66 rex o d imm = (spellLegacyImm p66 rex o d imm).bytes [] :=
  encodeLegacy_eq_bytes (BitVec.getLsbD_of_ge d 4 (by decide)) rfl
    ((RegMem.bodyBytes_code ..).trans (bodyBytes_imm_eq_opBody ho ..))

theorem encodeVexRm_eq_bytes {o : Opcode} (ho : o.isImm = false) (f : VexForm) (l : Bool) (d s : BitVec 4)
    (c : RegMem 4) : encodeVexRm f l o d s c = (spellVexRm f l o d s c).bytes [] :=
  encodeVex_eq_bytes rfl rfl ((c.bodyBytes_code ..).trans (bodyBytes_eq_opBody ho ..))

theorem encodeVexImm_eq_bytes {o : Opcode} (ho : o.isImm = true) (f : VexForm) (l : Bool) (d s : BitVec 4)
    (imm : Byte) : encodeVexImm f l o d s imm = (spellVexImm f l o d s imm).bytes [] :=
  encodeVex_eq_bytes (BitVec.getLsbD_of_ge s 4 (by decide)) rfl
    ((RegMem.bodyBytes_code ..).trans (bodyBytes_imm_eq_opBody ho ..))

theorem encodeEvexRm_eq_bytes {o : Opcode} (ho : o.isImm = false) (ll : BitVec 2) (w : Bool) (m : Mask)
    (d s : BitVec 5) (c : RegMem 5) : encodeEvexRm ll w o m d s c = (spellEvexRm ll w o m d s c).bytes [] :=
  encodeEvex_eq_bytes rfl rfl ((c.bodyBytes_code ..).trans (bodyBytes_eq_opBody ho ..))

theorem encodeEvexImm_eq_bytes {o : Opcode} (ho : o.isImm = true) {code : RmCode} {rm : RmField}
    (hcode : ∀ tail, bodyBytes o 4#3 code tail = bodyBytes o 4#3 (rmCode rm) tail) (ll : BitVec 2) (w bc : Bool)
    (m : Mask) (d : BitVec 5) (imm : Byte) :
    encodeEvexImm ll w bc o m d code imm = (spellEvexImm ll w bc o m d code.x code.b rm imm).bytes [] :=
  encodeEvex_eq_bytes rfl rfl ((hcode _).trans (bodyBytes_imm_eq_opBody ho ..))

/-- Every instruction is encoded as its fields. -/
theorem encode_eq_bytes (i : Instr) : encode i = i.spelling.bytes [] := by
  cases i with
  | psrawMmRm | psrawXmmRm | psradMmRm | psradXmmRm => exact encodeLegacyRm_eq_bytes rfl ..
  | psrawMmImm | psrawXmmImm | psradMmImm | psradXmmImm => exact encodeLegacyImm_eq_bytes rfl ..
  | vpsrawXmmRm | vpsradXmmRm | vpsrawYmmRm | vpsradYmmRm => exact encodeVexRm_eq_bytes rfl ..
  | vpsrawXmmImm | vpsradXmmImm | vpsrawYmmImm | vpsradYmmImm => exact encodeVexImm_eq_bytes rfl ..
  | evpsrawXmmRm | evpsrawYmmRm | evpsrawZmmRm | evpsradXmmRm | evpsradYmmRm | evpsradZmmRm | evpsraqXmmRm
  | evpsraqYmmRm | evpsraqZmmRm => exact encodeEvexRm_eq_bytes rfl ..
  | evpsrawXmmImm w m d s i | evpsrawYmmImm w m d s i | evpsrawZmmImm w m d s i =>
    exact encodeEvexImm_eq_bytes rfl (s.bodyBytes_code _ _) ..
  | evpsradXmmImm m d s i | evpsradYmmImm m d s i | evpsradZmmImm m d s i | evpsraqXmmImm m d s i
  | evpsraqYmmImm m d s i | evpsraqZmmImm m d s i => exact encodeEvexImm_eq_bytes rfl (s.bodyBytes_code _ _) ..

theorem encode_append_eq_bytes (i : Instr) (rest : List Byte) : encode i ++ rest = i.spelling.bytes rest := by
  rw [encode_eq_bytes, Spelling.bytes_append, List.nil_append]

/-! ### The fields of an instruction select it -/

theorem spelling_row (i : Instr) : i.spelling.row = .ok i := by
  cases i with
  | psrawMmRm | psradMmRm | psrawXmmRm | psradXmmRm =>
    simp [Instr.spelling, Spelling.row, spellLegacyRm, Front.row, legacyRow, RegMem.field_mm, RegMem.field_xmm]
  | psrawMmImm | psradMmImm | psrawXmmImm | psradXmmImm =>
    simp [Instr.spelling, Spelling.row, spellLegacyImm, Front.row, legacyRow]
  | vpsrawXmmRm | vpsradXmmRm | vpsrawYmmRm | vpsradYmmRm =>
    simp [Instr.spelling, Spelling.row, spellVexRm, Front.row, vexRow, RegMem.field_xmm]
  | vpsrawXmmImm | vpsradXmmImm | vpsrawYmmImm | vpsradYmmImm =>
    simp [Instr.spelling, Spelling.row, spellVexImm, Front.row, vexRow]
  | evpsrawXmmRm | evpsrawYmmRm | evpsrawZmmRm | evpsradXmmRm | evpsradYmmRm | evpsradZmmRm | evpsraqXmmRm
  | evpsraqYmmRm | evpsraqZmmRm =>
    simp [Instr.spelling, Spelling.row, spellEvexRm, Front.row, evexRow, RegMem.field_zmm]
  | evpsrawXmmImm | evpsrawYmmImm | evpsrawZmmImm =>
    simp [Instr.spelling, Spelling.row, spellEvexImm, Front.row, evexRow, RegMem.field_zmm]
  | evpsradXmmImm | evpsradYmmImm | evpsradZmmImm | evpsraqXmmImm | evpsraqYmmImm | evpsraqZmmImm =>
    simp [Instr.spelling, Spelling.row, spellEvexImm, Front.row, evexRow, Source.field_source]

/-! ### The fields of a well-formed instruction are admitted -/

theorem front_legacy_nonCanonical_iff {p66 rex r x b : Bool} {o : Opcode} {rm : RmField} :
    (Front.legacy p66 rex r x b).nonCanonical o rm = none ↔
      (r = true → p66 = true ∧ o.isImm = false) ∧ (x = true → rm.hasSib = true) ∧
      (b = true → (p66 = false → o.isImm = false ∧ rm.isReg = false) ∧ rm.lacksBase = false) := by
  obtain ⟨h3, h2, h1, h0⟩ := bitOf_rexByte r x b
  simp [Front.nonCanonical, legacyNonCanonical_eq_none_iff, h3, h2, h1, h0]

theorem evexInvalid_eq_false_iff {e : EvexBits} {o : Opcode} {rm : RmField} :
    evexInvalid e o rm = false ↔
      e.fixedOk = true ∧ e.ll ≠ 3#2 ∧ (e.bc = true → rm.isReg = false ∧ o = .i72) ∧
        (e.z = true → e.aaa ≠ 0#3) := by
  simp [evexInvalid, and_assoc]

theorem Mask.wf_iff {m : Mask} : m.wf = true ↔ (m.z = true → m.k ≠ 0#3) := by
  cases h : m.z <;> simp [Mask.wf, h]

theorem RegMem.bodyFields {n : Nat} {c : RegMem n} (hc : c.memWf = true) {o : Opcode} (ho : o.isImm = false)
    (reg : BitVec 3) : BodyFields c.code.x c.code.b o reg c.field 0#8 :=
  ⟨c.rmSpelt_field.trans hc, c.setExt_field, fun hi => absurd (ho.symm.trans hi) nofun, fun _ => rfl⟩

theorem bodyFields_imm {x b : Bool} {rm : RmField} (hspelt : rmSpelt rm = true) (hext : rm.setExt x b = rm) {o : Opcode}
    (ho : o.isImm = true) (imm : Byte) : BodyFields x b o 4#3 rm imm :=
  ⟨hspelt, hext, fun _ => rfl, fun hi => absurd (ho.symm.trans hi) nofun⟩

/-- Op/En A; on an MMX row neither the register in ModRM.reg nor one in ModRM.r/m has an extension bit. -/
theorem spellLegacyRm_admitted {n : Nat} (hn : n ≤ 4) {p66 rex : Bool} {o : Opcode} {d : BitVec 4} {c : RegMem n}
    (ho : o.isImm = false) (hmmx : p66 = false → d.getLsbD 3 = false ∧ (c.code.b = true → c.field.isReg = false))
    (hc : c.memWf = true) (hrex : legacyWf rex (d.getLsbD 3) c.extX c.extB = true) :
    (spellLegacyRm p66 rex o d c).Admitted := by
  rw [c.extX_eq hn, c.extB_eq] at hrex
  refine ⟨hrex, RegMem.bodyFields hc ho _, front_legacy_nonCanonical_iff.2 ⟨fun hr => ⟨?_, ho⟩, RegMem.hasSib_of_x hn,
    fun hb => ⟨fun h66 => ⟨ho, (hmmx h66).2 hb⟩, RegMem.not_lacksBase_of_b hb⟩⟩, rfl⟩
  cases p66 with
  | true => rfl
  | false => exact absurd ((hmmx rfl).1.symm.trans hr) nofun

/-- Op/En B. -/
theorem spellLegacyImm_admitted {p66 rex : Bool} {o : Opcode} {d : BitVec 4} (ho : o.isImm = true)
    (hmmx : p66 = false → d.getLsbD 3 = false) (hrex : legacyWf rex false false (d.getLsbD 3) = true) (imm : Byte) :
    (spellLegacyImm p66 rex o d imm).Admitted :=
  ⟨hrex, bodyFields_imm rfl rfl ho imm, front_legacy_nonCanonical_iff.2 ⟨nofun, nofun,
    fun hb => ⟨fun h66 => absurd ((hmmx h66).symm.trans hb) nofun, rfl⟩⟩, rfl⟩

/-- Op/En C. -/
theorem spellVexRm_admitted {f : VexForm} {o : Opcode} {c : RegMem 4} (ho : o.isImm = false) (hc : c.memWf = true)
    (hform : f.admits c.extX c.extB = true) (l : Bool) (d s : BitVec 4) : (spellVexRm f l o d s c).Admitted := by
  rw [c.extX_eq (by decide), c.extB_eq] at hform
  exact ⟨hform, RegMem.bodyFields hc ho _, vexNonCanonical_eq_none_iff.2
    ⟨fun _ => ho, RegMem.hasSib_of_x (by decide), RegMem.not_lacksBase_of_b⟩, rfl⟩

/-- Op/En D. -/
theorem spellVexImm_admitted {f : VexForm} {o : Opcode} {s : BitVec 4} (ho : o.isImm = true)
    (hform : f.admits false (s.getLsbD 3) = true) (l : Bool) (d : BitVec 4) (imm : Byte) :
    (spellVexImm f l o d s imm).Admitted :=
  ⟨hform, bodyFields_imm rfl rfl ho imm, vexNonCanonical_eq_none_iff.2 ⟨nofun, nofun, fun _ => rfl⟩, rfl⟩

/-- Op/En G. -/
theorem spellEvexRm_admitted {ll : BitVec 2} (hll : ll ≠ 3#2) {o : Opcode} (ho : o.isImm = false) {m : Mask}
    (hm : m.wf = true) {c : RegMem 5} (hc : c.memWf = true) (w : Bool) (d s : BitVec 5) :
    (spellEvexRm ll w o m d s c).Admitted :=
  ⟨rfl, RegMem.bodyFields hc ho _, evexNonCanonical_eq_none_iff.2
    ⟨fun _ => ho, fun _ => ho, RegMem.names_of_x, RegMem.not_lacksBase_of_b⟩,
    evexInvalid_eq_false_iff.2 ⟨rfl, hll, nofun, Mask.wf_iff.1 hm⟩⟩

/-- Op/En E and F. -/
theorem spellEvexImm_admitted {ll : BitVec 2} (hll : ll ≠ 3#2) {o : Opcode} (ho : o.isImm = true) {m : Mask}
    (hm : m.wf = true) {x b bc : Bool} {rm : RmField} (hspelt : rmSpelt rm = true) (hext : rm.setExt x b = rm)
    (hx : x = true → rm.isReg = true ∨ rm.hasSib = true) (hb : b = true → rm.lacksBase = false)
    (hbc : bc = true → rm.isReg = false ∧ o = .i72) (w : Bool) (d : BitVec 5) (imm : Byte) :
    (spellEvexImm ll w bc o m d x b rm imm).Admitted :=
  ⟨rfl, bodyFields_imm hspelt hext ho imm, evexNonCanonical_eq_none_iff.2 ⟨nofun, nofun, hx, hb⟩,
    evexInvalid_eq_false_iff.2 ⟨rfl, hll, hbc, Mask.wf_iff.1 hm⟩⟩

theorem spellEvexFullMem_admitted {ll : BitVec 2} (hll : ll ≠ 3#2) {m : Mask} {s : RegMem 5}
    (hwf : (m.wf && s.memWf) = true) (w : Bool) (d : BitVec 5) (imm : Byte) :
    (spellEvexImm ll w false .i71 m d s.code.x s.code.b s.field imm).Admitted := by
  obtain ⟨hm, hs⟩ := Bool.and_eq_true_iff.1 hwf
  exact spellEvexImm_admitted (o := .i71) (bc := false) hll rfl hm (s.rmSpelt_field.trans hs) s.setExt_field RegMem.names_of_x
    RegMem.not_lacksBase_of_b nofun w d imm

theorem spellEvexFull_admitted {ll : BitVec 2} (hll : ll ≠ 3#2) {m : Mask} {s : Source}
    (hwf : (m.wf && s.memWf) = true) (w : Bool) (d : BitVec 5) (imm : Byte) :
    (spellEvexImm ll w s.isBcst .i72 m d s.code.x s.code.b s.field imm).Admitted := by
  obtain ⟨hm, hs⟩ := Bool.and_eq_true_iff.1 hwf
  have hbc : s.isBcst = true → s.field.isReg = false := fun h => by
    cases s with
    | reg | mem => cases h
    | bcst => rfl
  exact spellEvexImm_admitted hll rfl hm (s.rmSpelt_field.trans hs) s.setExt_field Source.names_of_x
    Source.not_lacksBase_of_b (fun h => ⟨hbc h, rfl⟩) w d imm

/-- The fields of a well-formed instruction are admitted. -/
theorem spelling_admitted {i : Instr} (hwf : i.wf = true) : i.spelling.Admitted := by
  cases i with
  | psrawMmRm rex d c | psradMmRm rex d c =>
    obtain ⟨hc, hrex⟩ := Bool.and_eq_true_iff.1 hwf
    have hd : (d.setWidth 4).getLsbD 3 = false := by simp
    exact spellLegacyRm_admitted (by decide) rfl (fun _ => ⟨hd, RegMem.not_isReg_of_b⟩) hc (hd ▸ hrex)
  | psrawXmmRm rex d c | psradXmmRm rex d c =>
    obtain ⟨hc, hrex⟩ := Bool.and_eq_true_iff.1 hwf
    exact spellLegacyRm_admitted (by decide) rfl nofun hc hrex
  | psrawMmImm rex d imm | psradMmImm rex d imm =>
    have hd : (d.setWidth 4).getLsbD 3 = false := by simp
    exact spellLegacyImm_admitted rfl (fun _ => hd) (by simp [legacyWf]) imm
  | psrawXmmImm rex d imm | psradXmmImm rex d imm => exact spellLegacyImm_admitted (by rfl) (by simp) hwf imm
  | vpsrawXmmRm f d s c | vpsradXmmRm f d s c | vpsrawYmmRm f d s c | vpsradYmmRm f d s c =>
    obtain ⟨hc, hform⟩ := Bool.and_eq_true_iff.1 hwf
    exact spellVexRm_admitted rfl hc hform _ d s
  | vpsrawXmmImm f d s imm | vpsradXmmImm f d s imm | vpsrawYmmImm f d s imm | vpsradYmmImm f d s imm =>
    exact spellVexImm_admitted rfl hwf _ d imm
  | evpsrawXmmRm w m d s c | evpsrawYmmRm w m d s c | evpsrawZmmRm w m d s c =>
    obtain ⟨hm, hc⟩ := Bool.and_eq_true_iff.1 hwf
    exact spellEvexRm_admitted (by decide) rfl hm hc w d s
  | evpsradXmmRm m d s c | evpsradYmmRm m d s c | evpsradZmmRm m d s c | evpsraqXmmRm m d s c | evpsraqYmmRm m d s c
  | evpsraqZmmRm m d s c =>
    obtain ⟨hm, hc⟩ := Bool.and_eq_true_iff.1 hwf
    exact spellEvexRm_admitted (by decide) rfl hm hc _ d s
  | evpsrawXmmImm w m d s imm | evpsrawYmmImm w m d s imm | evpsrawZmmImm w m d s imm =>
    exact spellEvexFullMem_admitted (by decide) hwf w d imm
  | evpsradXmmImm m d s imm | evpsradYmmImm m d s imm | evpsradZmmImm m d s imm | evpsraqXmmImm m d s imm
  | evpsraqYmmImm m d s imm | evpsraqZmmImm m d s imm => exact spellEvexFull_admitted (by decide) hwf _ d imm

/-- Decoding the bytes of a well-formed instruction gives it back, whatever follows. -/
theorem decode_encode {i : Instr} (hwf : i.wf = true) (rest : List Byte) : decode (encode i ++ rest) = .ok i := by
  rw [encode_append_eq_bytes, (spelling_admitted hwf).decode, spelling_row]

/-! ### Admitted fields are those of the instruction they select -/

/-- `i` is well formed and has the fields `f`. -/
structure SpelledBy (i : Instr) (f : Spelling) : Prop where
  wf : i.wf = true
  spelling : i.spelling = f

theorem spellLegacyRm_eq {n : Nat} {c : RegMem n} {rm : RmField} {r x b : Bool} {d : BitVec 4} {reg : BitVec 3}
    (hc : Spells c.field c.code c.memWf rm x b) (hd : d.getLsbD 3 = r) (hreg : d.extractLsb' 0 3 = reg) (p66 rex : Bool)
    (o : Opcode) : spellLegacyRm p66 rex o d c = ⟨.legacy p66 rex r x b, o, reg, rm, 0#8⟩ := by
  simp only [spellLegacyRm, hc.field, hc.x, hc.b, hd, hreg]

theorem Spells.legacyWf {n : Nat} (hn : n ≤ 4) {c : RegMem n} {rm : RmField} {rex r x b : Bool}
    (hc : Spells c.field c.code c.memWf rm x b) (hwf : legacyWf rex r x b = true) :
    (c.memWf && Sys2Proof.legacyWf rex r c.extX c.extB) = true := by
  rw [c.extX_eq hn, c.extB_eq, hc.x, hc.b, hc.memWf, hwf, Bool.and_self]

theorem spelledBy_legacy {p66 rex r x b : Bool} {o : Opcode} {reg : BitVec 3} {rm : RmField} {imm : Byte} {i : Instr}
    (hf : Spelling.Admitted ⟨.legacy p66 rex r x b, o, reg, rm, imm⟩) (hrow : legacyRow p66 rex r b o reg rm imm = .ok i) :
    SpelledBy i ⟨.legacy p66 rex r x b, o, reg, rm, imm⟩ := by
  obtain ⟨hwf, ⟨hspelt, hext, hreg, himm⟩, hcanon, -⟩ := hf
  obtain ⟨hR, hX, hB⟩ := front_legacy_nonCanonical_iff.1 hcanon
  cases o with
  | e1 | e2 =>
    obtain rfl : imm = 0#8 := himm rfl
    cases p66 with
    | false =>
      obtain rfl : r = false := Bool.eq_false_iff.2 fun hr => absurd (hR hr).1 nofun
      have hc := RmField.spells_mm hspelt hext hX fun hb => ⟨((hB hb).1 rfl).2, (hB hb).2⟩
      cases hrow
      exact ⟨hc.legacyWf (by decide) hwf, spellLegacyRm_eq hc (by simp) (by simp) ..⟩
    | true =>
      have hc := RmField.spells_xmm hspelt hext hX fun hb => (hB hb).2
      cases hrow
      refine ⟨?_, spellLegacyRm_eq hc (by simp) (by simp) ..⟩
      have hr : (ext4 r reg).getLsbD 3 = r := by simp
      rw [Instr.wf, hr]
      exact hc.legacyWf (by decide) hwf
  | i71 | i72 =>
    obtain rfl : reg = 4#3 := hreg rfl
    obtain rfl : r = false := Bool.eq_false_iff.2 fun hr => absurd (hR hr).2 nofun
    cases rm with
    | mem m => cases p66 <;> cases hrow
    | reg n =>
      obtain rfl : x = false := Bool.eq_false_iff.2 fun hx => absurd (hX hx) nofun
      cases p66 with
      | false =>
        obtain rfl : b = false := Bool.eq_false_iff.2 fun hb => absurd ((hB hb).1 rfl).1 nofun
        cases hrow
        exact ⟨rfl, by simp [Instr.spelling, spellLegacyImm]⟩
      | true =>
        cases hrow
        have hb : (ext4 b n).getLsbD 3 = b := by simp
        refine ⟨?_, by simp [Instr.spelling, spellLegacyImm]⟩
        rw [Instr.wf, hb]
        exact hwf

theorem spelledBy_vex {v : VexBits} {o : Opcode} {reg : BitVec 3} {rm : RmField} {imm : Byte} {i : Instr}
    (hf : Spelling.Admitted ⟨.vex v, o, reg, rm, imm⟩) (hrow : vexRow v o reg rm imm = .ok i) :
    SpelledBy i ⟨.vex v, o, reg, rm, imm⟩ := by
  obtain ⟨form, r, x, b, vvvv, l⟩ := v
  obtain ⟨hwf, ⟨hspelt, hext, hreg, himm⟩, hcanon, -⟩ := hf
  obtain ⟨hR, hX, hB⟩ := vexNonCanonical_eq_none_iff.1 hcanon
  cases o with
  | e1 | e2 =>
    obtain rfl : imm = 0#8 := himm rfl
    have hc := RmField.spells_xmm (rm := rm) (x := x) (b := b) hspelt hext hX hB
    have hform : ((rm.xmm b).memWf && form.admits (rm.xmm b).extX (rm.xmm b).extB) = true := by
      rw [RegMem.extX_eq (by decide), RegMem.extB_eq, hc.x, hc.b, hc.memWf]
      exact hwf
    have hspell : ∀ o', spellVexRm form l o' (ext4 r reg) vvvv (rm.xmm b) =
        ⟨.vex ⟨form, r, x, b, vvvv, l⟩, o', reg, rm, 0#8⟩ := fun o' => by
      simp [spellVexRm, hc.field, hc.x, hc.b]
    cases l with
    | false | true => cases hrow; exact ⟨hform, hspell _⟩
  | i71 | i72 =>
    obtain rfl : reg = 4#3 := hreg rfl
    obtain rfl : r = false := Bool.eq_false_iff.2 fun hr => absurd (hR hr) nofun
    cases rm with
    | mem m => cases l <;> cases hrow
    | reg n =>
      obtain rfl : x = false := Bool.eq_false_iff.2 fun hx => absurd (hX hx) nofun
      have hb : (ext4 b n).getLsbD 3 = b := by simp
      have hform : form.admits false ((ext4 b n).getLsbD 3) = true := by rw [hb]; exact hwf
      have hspell : ∀ o', spellVexImm form l o' vvvv (ext4 b n) imm =
          ⟨.vex ⟨form, false, false, b, vvvv, l⟩, o', 4#3, .reg n, imm⟩ := fun o' => by
        simp [spellVexImm]
      cases l with
      | false | true => cases hrow; exact ⟨hform, hspell _⟩

theorem spelledBy_evex {e : EvexBits} {o : Opcode} {reg : BitVec 3} {rm : RmField} {imm : Byte} {i : Instr}
    (hf : Spelling.Admitted ⟨.evex e, o, reg, rm, imm⟩) (hrow : evexRow e o reg rm imm = .ok i) :
    SpelledBy i ⟨.evex e, o, reg, rm, imm⟩ := by
  obtain ⟨r, x, b, r', w, vvvv, z, ll, bc, v', aaa, fixedOk⟩ := e
  obtain ⟨-, ⟨hspelt, hext, hreg, himm⟩, hcanon, hvalid⟩ := hf
  obtain ⟨hR, hR', hX, hB⟩ := evexNonCanonical_eq_none_iff.1 hcanon
  obtain ⟨hfixed, hll3, hbc, hz⟩ := evexInvalid_eq_false_iff.1 hvalid
  obtain rfl : fixedOk = true := hfixed
  have hm : Mask.wf ⟨aaa, z⟩ = true := Mask.wf_iff.2 hz
  have hll : ll = 0#2 ∨ ll = 1#2 ∨ ll = 2#2 := by simp only at hll3; bv_omega
  cases o with
  | e1 | e2 =>
    obtain rfl : imm = 0#8 := himm rfl
    obtain rfl : bc = false := Bool.eq_false_iff.2 fun h => absurd (hbc h).2 nofun
    have hc := RmField.spells_zmm (rm := rm) (x := x) (b := b) hspelt hext hX hB
    have hwf : (Mask.wf ⟨aaa, z⟩ && (rm.zmm x b).memWf) = true := by rw [hm, hc.memWf, Bool.and_self]
    have hspell : ∀ o', spellEvexRm ll w o' ⟨aaa, z⟩ (ext5 r' r reg) (extV v' vvvv) (rm.zmm x b) =
        ⟨.evex ⟨r, x, b, r', w, vvvv, z, ll, false, v', aaa, true⟩, o', reg, rm, 0#8⟩ := fun o' => by
      simp [spellEvexRm, hc.field, hc.x, hc.b]
    obtain rfl | rfl | rfl := hll
    all_goals
      cases w with
      | false | true => cases hrow; exact ⟨hwf, hspell _⟩
  | i71 =>
    obtain rfl : reg = 4#3 := hreg rfl
    obtain rfl : r = false := Bool.eq_false_iff.2 fun h => absurd (hR h) nofun
    obtain rfl : r' = false := Bool.eq_false_iff.2 fun h => absurd (hR' h) nofun
    obtain rfl : bc = false := Bool.eq_false_iff.2 fun h => absurd (hbc h).2 nofun
    have hc := RmField.spells_zmm (rm := rm) (x := x) (b := b) hspelt hext hX hB
    have hwf : (Mask.wf ⟨aaa, z⟩ && (rm.zmm x b).memWf) = true := by rw [hm, hc.memWf, Bool.and_self]
    have hspell : spellEvexImm ll w false .i71 ⟨aaa, z⟩ (extV v' vvvv) (rm.zmm x b).code.x (rm.zmm x b).code.b
        (rm.zmm x b).field imm =
        ⟨.evex ⟨false, x, b, false, w, vvvv, z, ll, false, v', aaa, true⟩, .i71, 4#3, rm, imm⟩ := by
      simp [spellEvexImm, hc.field, hc.x, hc.b]
    obtain rfl | rfl | rfl := hll
    all_goals cases hrow; exact ⟨hwf, hspell⟩
  | i72 =>
    obtain rfl : reg = 4#3 := hreg rfl
    obtain rfl : r = false := Bool.eq_false_iff.2 fun h => absurd (hR h) nofun
    obtain rfl : r' = false := Bool.eq_false_iff.2 fun h => absurd (hR' h) nofun
    have hc := RmField.spells_source (rm := rm) (x := x) (b := b) hspelt hext hX hB bc
    have hbcst := RmField.isBcst_source (rm := rm) (bc := bc) (fun h => (hbc h).1) x b
    have hwf : (Mask.wf ⟨aaa, z⟩ && (rm.source x b bc).memWf) = true := by rw [hm, hc.memWf, Bool.and_self]
    have hspell : spellEvexImm ll w (rm.source x b bc).isBcst .i72 ⟨aaa, z⟩ (extV v' vvvv) (rm.source x b bc).code.x
        (rm.source x b bc).code.b (rm.source x b bc).field imm =
        ⟨.evex ⟨false, x, b, false, w, vvvv, z, ll, bc, v', aaa, true⟩, .i72, 4#3, rm, imm⟩ := by
      simp [spellEvexImm, hc.field, hc.x, hc.b, hbcst]
    obtain rfl | rfl | rfl := hll
    all_goals
      cases w with
      | false | true => cases hrow; exact ⟨hwf, hspell⟩

/-- Admitted fields are those of the instruction they select. -/
theorem spelledBy_of_row {f : Spelling} (hf : f.Admitted) {i : Instr} (hrow : f.row = .ok i) : SpelledBy i f := by
  obtain ⟨front, o, reg, rm, imm⟩ := f
  cases front with
  | legacy => exact spelledBy_legacy hf hrow
  | vex => exact spelledBy_vex hf hrow
  | evex => exact spelledBy_evex hf hrow

/-- Bytes decode to an instruction exactly when it is well formed and they begin with its encoding. -/
theorem decode_eq_ok_iff {bs : List Byte} {i : Instr} :
    decode bs = .ok i ↔ i.wf = true ∧ ∃ rest, bs = encode i ++ rest := by
  constructor
  · intro h
    obtain ⟨f, rest, hf, rfl, hrow⟩ := exists_spelling h
    obtain ⟨hwf, rfl⟩ := spelledBy_of_row hf hrow
    exact ⟨hwf, rest, (encode_append_eq_bytes i rest).symm⟩
  · rintro ⟨hwf, rest, rfl⟩
    exact decode_encode hwf rest

end Sys2Proof

namespace Sys2Proof.Claims

/-- Settles O39: the fields of a legacy instruction are read back as they were written. -/
theorem legacyDecodesWhatWasEncoded : Obligations.LegacyDecodesWhatWasEncoded :=
  fun _ rest hwf _ => decode_encode hwf rest

/-- Settles O40: so are those of a VEX instruction. -/
theorem vexDecodesWhatWasEncoded : Obligations.VexDecodesWhatWasEncoded :=
  fun _ rest hwf _ => decode_encode hwf rest

/-- Settles O41: so are those of an EVEX instruction. -/
theorem evexDecodesWhatWasEncoded : Obligations.EvexDecodesWhatWasEncoded :=
  fun _ rest hwf _ => decode_encode hwf rest

/-- Settles O42: what decodes is admitted fields, and these are the fields of the instruction answered. -/
theorem decodedBytesAreTheEncoding : Obligations.DecodedBytesAreTheEncoding :=
  fun _ _ h => decode_eq_ok_iff.1 h

/-- Settles O43: a front part with a verdict would keep it on the whole encoding, so it would itself hold the whole encoding. -/
theorem noEncodingIsThePrefixOfAnother : Obligations.NoEncodingIsThePrefixOfAnother := by
  intro i k hwf hk
  by_contra hmore
  have hwhole : decode ((encode i).take k) = .ok i := by
    rw [← decode_append hmore ((encode i).drop k), List.take_append_drop, ← List.append_nil (encode i)]
    exact decode_encode hwf []
  obtain ⟨-, rest, hrest⟩ := decode_eq_ok_iff.1 hwhole
  have hlen := congrArg List.length hrest
  simp only [List.length_take, List.length_append] at hlen
  omega

end Sys2Proof.Claims
end

section
/-! PROOFS. One more of the prefixes in front of an encoding, and changes to the EVEX bytes of one. -/

namespace Sys2Proof

open Sys2Proof.Claims

/-! ### The class of an instruction, by its fields -/

/-- The class the fields in front select; 66 tells the two legacy columns apart (30_encoding.md rule R65). -/
def Front.osClass : Front → OsClass
  | .legacy p66 _ _ _ _ => if p66 then .sse else .mmx
  | .vex _ => .avx
  | .evex _ => .avx512

theorem spelling_osClass (i : Instr) : i.spelling.front.osClass = i.osClass := by cases i <;> rfl

/-- The encoding of a VEX or EVEX instruction has none of the prefixes. -/
theorem Front.of_not_legacy {f : Front} (h : (f.osClass == .mmx || f.osClass == .sse) = false) :
    f.pre = [] ∧ f.head ≠ .legacy := by
  cases f with
  | legacy p66 => cases p66 <;> cases h
  | vex v =>
    refine ⟨rfl, ?_⟩
    obtain ⟨form, r, x, b, vvvv, l⟩ := v
    cases form <;> exact nofun
  | evex e => exact ⟨rfl, nofun⟩

theorem Head.foreign_of_ne_legacy {h : Head} (hne : h ≠ .legacy) (pre : List Byte) : h.foreign pre = false := by
  cases h with
  | legacy => exact absurd rfl hne
  | vex2 | vex3 | evex => rfl

/-- Any of the prefixes in front of VEX or EVEX is invalid (30_encoding.md rule R59). -/
theorem Head.invalid_of_ne_legacy {h : Head} (hne : h ≠ .legacy) (p : Byte) (pre : List Byte) (o : Opcode) (rm : RmField) :
    h.invalid (p :: pre) o rm = true := by
  cases h with
  | legacy => exact absurd rfl hne
  | vex2 | vex3 | evex => rfl

/-! ### One more byte in front -/

theorem contains_cons_of_ne {p q : Byte} (h : p ≠ q) (pre : List Byte) : (p :: pre).contains q = pre.contains q := by
  rw [List.contains_cons, beq_eq_false_iff_ne.2 h.symm, Bool.false_or]

/-- One of the prefixes that is neither 66 nor REX, nor F2 or F3, changes no field. -/
theorem Spelling.Admitted.decode_cons_plain {f : Spelling} (hf : f.Admitted) {p : Byte} (hp : isLegacyByte p = true)
    (hrex : isRex p = false) (h66 : p ≠ 0x66#8) (h2 : p ≠ 0xF2#8) (h3 : p ≠ 0xF3#8) (rest : List Byte) :
    Sys2Proof.decode (p :: f.bytes rest) =
      verdictOf none (firstNotAdmitted [] (p :: f.front.pre)) (f.front.head.invalid (p :: f.front.pre) f.op f.rm)
        f.row := by
  refine hf.decode_cons (.inl hp) ?_ (fun _ => ⟨rexOf_cons (.inl hrex), contains_cons_of_ne h66 _⟩) rest
  rw [← f.front.not_foreign]
  cases f.front.head with
  | legacy => simp only [Head.foreign, contains_cons_of_ne h2, contains_cons_of_ne h3]
  | vex2 | vex3 | evex => rfl

/-- LOCK is an admitted byte and makes every encoding invalid (30_encoding.md rule R59). -/
theorem Spelling.Admitted.decode_lock {f : Spelling} (hf : f.Admitted) (rest : List Byte) :
    Sys2Proof.decode (0xF0#8 :: f.bytes rest) = .ud := by
  rw [hf.decode_cons_plain rfl rfl (by decide) (by decide) (by decide)]
  have hallowed : firstNotAdmitted [] (0xF0#8 :: f.front.pre) = none := by
    cases f.front with
    | legacy p66 rex r x b => revert p66 rex r x b; decide
    | vex | evex => rfl
  have hinvalid : f.front.head.invalid (0xF0#8 :: f.front.pre) f.op f.rm = true := by
    cases f.front.head <;> rfl
  rw [hallowed, hinvalid, verdictOf_invalid]

/-- In front of VEX or EVEX, so does any of the prefixes that the model does not refuse. -/
theorem Spelling.Admitted.decode_cons_not_legacy {f : Spelling} (hf : f.Admitted)
    (hfront : (f.front.osClass == .mmx || f.front.osClass == .sse) = false) {p : Byte}
    (hp : isLegacyByte p = true ∨ isRex p = true) (href : isRefusedByte p = false) (rest : List Byte) :
    Sys2Proof.decode (p :: f.bytes rest) = .ud := by
  obtain ⟨hpre, hhead⟩ := Front.of_not_legacy hfront
  have hallowed : firstNotAdmitted [] [p] = none := by simp [firstNotAdmitted, href]
  rw [hf.decode_cons hp (Head.foreign_of_ne_legacy hhead _) (fun h => absurd h hhead),
    Head.invalid_of_ne_legacy hhead, hpre, hallowed, verdictOf_invalid]

/-- A segment override or 67 in front is the first byte not admitted. -/
theorem Spelling.Admitted.decode_refused {f : Spelling} (hf : f.Admitted) {p : Byte} (hlegacy : isLegacyByte p = true)
    (href : isRefusedByte p = true) (hrex : isRex p = false) (h66 : p ≠ 0x66#8) (h2 : p ≠ 0xF2#8) (h3 : p ≠ 0xF3#8)
    (rest : List Byte) : Sys2Proof.decode (p :: f.bytes rest) = .prefixNotAdmitted p := by
  have hfirst : firstNotAdmitted [] (p :: f.front.pre) = some p := by
    cases f.front.pre <;> simp [firstNotAdmitted, href]
  rw [hf.decode_cons_plain hlegacy hrex h66 h2 h3, hfirst, verdictOf_notAdmitted]

/-- F2 or F3 in front of a legacy encoding makes it another row. -/
theorem Spelling.decode_foreign {f : Spelling} (hhead : f.front.head = .legacy) {p : Byte}
    (hp : p = 0xF2#8 ∨ p = 0xF3#8) (rest : List Byte) : decode (p :: f.bytes rest) = .outOfScope := by
  have hpre : AllPrefixes (p :: f.front.pre) :=
    allPrefixes_cons (.inl (by obtain rfl | rfl := hp <;> rfl)) f.front.prefixes
  have hforeign : Head.legacy.foreign (p :: f.front.pre) = true := by
    obtain rfl | rfl := hp <;> simp [Head.foreign]
  have hdecode := decode_head (h := .legacy) hpre trivial (opBody f.op f.reg f.rm f.imm rest)
  rwa [hforeign, if_pos rfl, ← hhead] at hdecode

theorem firstNotAdmitted_second_66 (rex r x b : Bool) :
    firstNotAdmitted [] (0x66#8 :: legacyPre true rex r x b) = some 0x66#8 := by
  revert rex r x b; decide

/-- On an XMM row a byte 66 stands already: it is the byte not admitted behind another 66 or a REX byte. -/
theorem Spelling.Admitted.decode_cons_sse {f : Spelling} (hf : f.Admitted) (hsse : f.front.osClass = .sse) {p : Byte}
    (hp : p = 0x66#8 ∨ isRex p = true) (rest : List Byte) :
    Sys2Proof.decode (p :: f.bytes rest) = .prefixNotAdmitted 0x66#8 := by
  obtain ⟨front, o, reg, rm, imm⟩ := f
  cases front with
  | vex | evex => cases hsse
  | legacy p66 rex r x b =>
    obtain rfl : p66 = true := by cases p66 with
      | false => cases hsse
      | true => rfl
    have hcontains : ∀ q, isLegacyByte q = true → q ≠ 0x66#8 →
        (p :: legacyPre true rex r x b).contains q = (legacyPre true rex r x b).contains q := fun q hq hq66 => by
      refine contains_cons_of_ne (fun h => ?_) _
      subst h
      obtain h66 | hrex := hp
      · exact hq66 h66
      · exact absurd (hq.symm.trans (not_isLegacyByte_of_isRex hrex)) nofun
    obtain ⟨h66, -, h2, h3⟩ := legacyPre_contains true rex r x b
    have hforeign : Head.legacy.foreign (p :: legacyPre true rex r x b) = false := by
      simp only [Head.foreign, hcontains 0xF2#8 rfl (by decide), hcontains 0xF3#8 rfl (by decide), h2, h3, Bool.or_self]
    have hfirst : firstNotAdmitted [] (p :: legacyPre true rex r x b) = some 0x66#8 := by
      obtain rfl | hrex := hp
      · exact firstNotAdmitted_second_66 rex r x b
      · simp [legacyPre, firstNotAdmitted, hrex, not_isRefusedByte_of_isRex hrex]
    have hprefix : isLegacyByte p = true ∨ isRex p = true := hp.imp_left fun h => by rw [h]; rfl
    have hdecode := hf.decode_cons hprefix hforeign
      (fun _ => ⟨rexOf_cons (.inr nofun), by simp only [Front.pre, List.contains_cons, h66, Bool.or_true]⟩) rest
    exact hdecode.trans (by rw [Front.pre, hfirst, verdictOf_notAdmitted])

theorem RegMem.code_setWidth (r : BitVec 3) :
    (RegMem.reg (r.setWidth 4) : RegMem 4).code = (RegMem.reg r : RegMem 3).code := by
  simp [RegMem.code, BitVec.getLsbD_of_ge]

/-- The XMM row of an MMX row: its bytes are 66 and those of the MMX row (30_encoding.md rule R59). -/
theorem xmmOf_encode {i x : Instr} (hx : xmmOf i = some x) (hwf : i.wf = true) :
    x.wf = true ∧ encode x = 0x66#8 :: encode i := by
  cases i with
  | psrawMmRm rex d c | psradMmRm rex d c =>
    obtain ⟨hc, hrex⟩ := Bool.and_eq_true_iff.1 hwf
    have hd : (d.setWidth 4).getLsbD 3 = false := by simp
    cases c with
    | reg r =>
      cases hx
      refine ⟨?_, ?_⟩
      · simp [Instr.wf, RegMem.memWf, RegMem.extX, RegMem.extB, legacyWf]
      · exact congrArg (encodeLegacyRm true rex _ (d.setWidth 4)) (RegMem.code_setWidth r)
    | mem m =>
      cases hx
      refine ⟨?_, rfl⟩
      rw [Instr.wf, hd]
      exact hwf
  | psrawMmImm rex d imm | psradMmImm rex d imm =>
    cases hx
    exact ⟨by simp [Instr.wf, legacyWf], rfl⟩
  | _ => cases hx

/-! ### Changed EVEX bytes -/

/-- EVEX bytes that keep the extension bits of an admitted encoding but are invalid make it #UD. -/
theorem decode_evex_invalid {e : EvexBits} {o : Opcode} {reg : BitVec 3} {rm : RmField} {imm : Byte}
    (hf : Spelling.Admitted ⟨.evex e, o, reg, rm, imm⟩) {p q t : Byte} (hsel : (Head.evex p q t).selects)
    (hr : (evexBits p q t).r = e.r) (hr' : (evexBits p q t).r' = e.r') (hx : (evexBits p q t).x = e.x)
    (hb : (evexBits p q t).b = e.b) (hinvalid : evexInvalid (evexBits p q t) o rm = true) (rest : List Byte) :
    decode (0x62#8 :: p :: q :: t :: opBody o reg rm imm rest) = .ud := by
  have hdecode := decode_head (pre := []) allPrefixes_nil hsel (opBody o reg rm imm rest)
  have hbody : BodyFields e.x e.b o reg rm imm := hf.body
  have hX : (Head.evex p q t).extX [] = e.x := hx
  have hB : (Head.evex p q t).extB [] = e.b := hb
  have hcanon : (Head.evex p q t).nonCanonical [] o rm = none := by
    rw [← hf.canonical]
    simp only [Head.nonCanonical, Front.nonCanonical, evexNonCanonical, hr, hr', hx, hb]
  have hbad : (Head.evex p q t).invalid [] o rm = true := hinvalid
  rw [Head.foreign, if_neg (by decide), hX, hB, hbody.decodeBody, Head.verdict_eq, hcanon,
    hbad] at hdecode
  exact hdecode

/-- The rows of tuple Full with a memory operand are those that have a broadcast form. -/
theorem no_broadcast {i : Instr} (hcls : i.osClass = .avx512) (h : i.fullRow = false ∨ i.access = none) :
    i.spelling.op ≠ .i72 ∨ i.spelling.rm.isReg = true := by
  cases i with
  | evpsradXmmImm m d s imm | evpsradYmmImm m d s imm | evpsradZmmImm m d s imm | evpsraqXmmImm m d s imm
  | evpsraqYmmImm m d s imm | evpsraqZmmImm m d s imm =>
    cases s with
    | reg r => exact .inr rfl
    | mem a | bcst a => obtain h | h := h <;> cases h
  | evpsrawXmmRm | evpsrawYmmRm | evpsrawZmmRm | evpsrawXmmImm | evpsrawYmmImm | evpsrawZmmImm => exact .inl nofun
  | evpsradXmmRm | evpsradYmmRm | evpsradZmmRm | evpsraqXmmRm | evpsraqYmmRm | evpsraqZmmRm => exact .inl nofun
  | _ => cases hcls

theorem evexP0_set_bit3 (r x b r' : Bool) :
    bitOf (evexP0 r x b r' ||| 0x08#8) 7 = !r ∧ bitOf (evexP0 r x b r' ||| 0x08#8) 6 = !x ∧
      bitOf (evexP0 r x b r' ||| 0x08#8) 5 = !b ∧ bitOf (evexP0 r x b r' ||| 0x08#8) 4 = !r' ∧
      bitOf (evexP0 r x b r' ||| 0x08#8) 3 = true ∧ (evexP0 r x b r' ||| 0x08#8).extractLsb' 0 3 = 1#3 := by
  revert r x b r'; decide

theorem evexP1_clear_bit2 (w : Bool) (vvvv : BitVec 4) :
    bitOf (evexP1 w vvvv &&& 0xFB#8) 2 = false ∧ (evexP1 w vvvv &&& 0xFB#8).extractLsb' 0 2 = 1#2 := by
  revert w vvvv; decide

theorem ll_of_set_0x60 (t : Byte) : (t ||| 0x60#8).extractLsb' 5 2 = 3#2 := by
  rw [BitVec.extractLsb'_or]
  exact BitVec.or_allOnes

theorem z_aaa_of_set_0x80_clear_0x07 (t : Byte) :
    bitOf ((t ||| 0x80#8) &&& 0xF8#8) 7 = true ∧ ((t ||| 0x80#8) &&& 0xF8#8).extractLsb' 0 3 = 0#3 := by
  refine ⟨by simp [bitOf], ?_⟩
  rw [BitVec.extractLsb'_and]
  exact BitVec.and_zero

theorem bc_of_set_0x10 (t : Byte) : bitOf (t ||| 0x10#8) 4 = true := by simp [bitOf]

end Sys2Proof

namespace Sys2Proof.Claims

/-- Settles O46: LOCK is checked on every class, and VEX and EVEX take none of the prefixes. -/
theorem lockAndForeignPrefixesAreInvalid : Obligations.LockAndForeignPrefixesAreInvalid := by
  intro i rest hwf
  have hf := spelling_admitted hwf
  rw [encode_append_eq_bytes]
  refine ⟨hf.decode_lock rest, fun hlegacy p hp => ?_⟩
  rw [Instr.isLegacy, ← spelling_osClass] at hlegacy
  obtain rfl | rfl | rfl | hrex := hp
  · exact hf.decode_cons_not_legacy hlegacy (.inl rfl) rfl rest
  · exact hf.decode_cons_not_legacy hlegacy (.inl rfl) rfl rest
  · exact hf.decode_cons_not_legacy hlegacy (.inl rfl) rfl rest
  · exact hf.decode_cons_not_legacy hlegacy (.inr hrex) (not_isRefusedByte_of_isRex hrex) rest

/-- Settles O47: each line is the verdict on the bytes in front; 66 before an MMX row is the encoding of the XMM row. -/
theorem otherPrefixesAsListed : Obligations.OtherPrefixesAsListed := by
  intro i rest hwf
  have hf := spelling_admitted hwf
  refine ⟨fun hlegacy => ?_, fun x hx => ?_, fun hsse => ?_, fun p hp => ?_⟩
  · have hhead : i.spelling.front.head = .legacy := by
      rw [Instr.isLegacy, ← spelling_osClass] at hlegacy
      cases h : i.spelling.front with
      | legacy => rfl
      | vex | evex => rw [h] at hlegacy; cases hlegacy
    rw [encode_append_eq_bytes]
    exact ⟨Spelling.decode_foreign hhead (.inl rfl) rest, Spelling.decode_foreign hhead (.inr rfl) rest⟩
  · obtain ⟨hxwf, henc⟩ := xmmOf_encode hx hwf
    rw [← List.cons_append, ← henc]
    exact decode_encode hxwf rest
  · rw [← spelling_osClass] at hsse
    rw [encode_append_eq_bytes]
    exact ⟨hf.decode_cons_sse hsse (.inl rfl) rest, fun p hp => hf.decode_cons_sse hsse (.inr hp) rest⟩
  · rw [encode_append_eq_bytes]
    obtain rfl | rfl | rfl | rfl | rfl | rfl | rfl := hp <;>
      exact hf.decode_refused rfl rfl rfl (by decide) (by decide) (by decide) rest

/-- Settles O48: each change leaves the bits of R54 alone and is one of the invalid fields of R61. -/
theorem invalidEvexFieldsAreInvalid : Obligations.InvalidEvexFieldsAreInvalid := by
  intro i rest hwf hcls
  have hf := spelling_admitted hwf
  have hfront := (spelling_osClass i).trans hcls
  have hbcst := no_broadcast hcls
  rw [encode_eq_bytes]
  generalize i.spelling = f at hf hfront hbcst ⊢
  obtain ⟨front, o, reg, rm, imm⟩ := f
  cases front with
  | legacy p66 => cases p66 <;> cases hfront
  | vex => cases hfront
  | evex e =>
    have hbytes : Spelling.bytes ⟨.evex e, o, reg, rm, imm⟩ [] = 0x62#8 :: evexP0 e.r e.x e.b e.r' ::
        evexP1 e.w e.vvvv :: evexP2 e.z e.ll e.bc e.v' e.aaa :: opBody o reg rm imm [] := rfl
    obtain ⟨h7, h6, h5, h4, -, hmap⟩ := evexP0_fields e.r e.x e.b e.r'
    obtain ⟨h7', h6', h5', h4', h3', hmap'⟩ := evexP0_set_bit3 e.r e.x e.b e.r'
    obtain ⟨-, -, -, hpp⟩ := evexP1_fields e.w e.vvvv
    obtain ⟨h2', hpp'⟩ := evexP1_clear_bit2 e.w e.vvvv
    have hP2 : ∀ t, evexInvalid (evexBits (evexP0 e.r e.x e.b e.r') (evexP1 e.w e.vvvv) t) o rm = true →
        decode (0x62#8 :: evexP0 e.r e.x e.b e.r' :: evexP1 e.w e.vvvv :: t :: opBody o reg rm imm rest) = .ud :=
      fun t hinvalid => decode_evex_invalid hf ⟨hmap, hpp⟩ (by simp [evexBits, h7]) (by simp [evexBits, h4])
        (by simp [evexBits, h6]) (by simp [evexBits, h5]) hinvalid rest
    simp only [hbytes, List.modify_succ_cons, List.modify_zero_cons, List.cons_append, opBody_append, List.nil_append]
    refine ⟨?_, ?_, hP2 _ ?_, hP2 _ ?_, fun h => hP2 _ ?_⟩
    · exact decode_evex_invalid hf ⟨hmap', hpp⟩ (by simp [evexBits, h7']) (by simp [evexBits, h4'])
        (by simp [evexBits, h6']) (by simp [evexBits, h5']) (by simp [evexInvalid, evexBits, h3']) rest
    · exact decode_evex_invalid hf ⟨hmap, hpp'⟩ (by simp [evexBits, h7]) (by simp [evexBits, h4])
        (by simp [evexBits, h6]) (by simp [evexBits, h5]) (by simp [evexInvalid, evexBits, h2']) rest
    · simp [evexInvalid, evexBits, ll_of_set_0x60]
    · simp [evexInvalid, evexBits, z_aaa_of_set_0x80_clear_0x07]
    · simp only [evexInvalid, evexBits, bc_of_set_0x10]
      obtain hop | hreg := hbcst h
      · simp [bne_iff_ne.2 hop]
      · simp [hreg]

end Sys2Proof.Claims
end

section
/-! PROOFS. Lengths of encodings, effective addresses as integers, refusals at execution, and the step on a verdict. -/

namespace Sys2Proof

open Sys2Proof.Claims

/-! ### Lengths -/

theorem Disp.len_le (d : Disp) : d.len ≤ 4 := by cases d <;> simp [Disp.len]

theorem Mem.len_le (m : Mem) : m.len ≤ 5 := by
  cases m with
  | base d => exact d.len_le.trans (by decide)
  | rip | sibNoBase => simp [Mem.len]
  | sib d => have := d.len_le; simp only [Mem.len]; omega

theorem RegMem.len_le {n : Nat} (c : RegMem n) : c.len ≤ 5 := by
  cases c with
  | reg => exact Nat.zero_le _
  | mem m => exact m.len_le

theorem Source.len_le (c : Source) : c.len ≤ 5 := by
  cases c with
  | reg => exact Nat.zero_le _
  | mem m | bcst m => exact m.len_le

theorem legacyLen_bounds (p66 rex : Bool) {rm imm : Nat} (h : rm + imm ≤ 5) :
    3 ≤ legacyLen p66 rex rm imm ∧ legacyLen p66 rex rm imm ≤ 11 := by
  have h66 := Bool.toNat_le p66
  have hrex := Bool.toNat_le rex
  simp only [legacyLen]
  omega

theorem vexLen_bounds (f : VexForm) {rm imm : Nat} (h : rm + imm ≤ 5) :
    4 ≤ vexLen f rm imm ∧ vexLen f rm imm ≤ 11 := by
  cases f <;> simp only [vexLen] <;> omega

theorem evexLen_bounds {rm imm : Nat} (h : rm + imm ≤ 6) : 6 ≤ evexLen rm imm ∧ evexLen rm imm ≤ 12 := by
  simp only [evexLen]
  omega

end Sys2Proof

namespace Sys2Proof.Machine

open Sys2Proof.Claims

/-! ### Effective addresses -/

theorem dispValue_eq_ofInt (scale : Nat) (d : Disp) : dispValue scale d = BitVec.ofInt 64 (eaInt.disp scale d) := by
  cases d with
  | none => rfl
  | d8 v => rw [dispValue, eaInt.disp, BitVec.ofInt_mul, BitVec.ofInt_natCast]; rfl
  | d32 v => rfl

theorem ofInt_toNat {w : Nat} (x : BitVec w) : BitVec.ofInt w x.toNat = x := by
  rw [BitVec.ofInt_natCast, BitVec.ofNat_toNat, BitVec.setWidth_eq]

theorem indexValue_eq_ofInt (s : State) (sc : BitVec 2) (i : BitVec 4) :
    s.indexValue sc i = BitVec.ofInt 64 (eaInt.index s sc i) := by
  unfold State.indexValue eaInt.index
  split
  · rfl
  · have hpow : BitVec.twoPow 64 sc.toNat = BitVec.ofInt 64 (2 ^ sc.toNat) := by
      have hcast : (2 ^ sc.toNat : Int) = ((2 ^ sc.toNat : Nat) : Int) := by norm_cast
      rw [hcast, BitVec.ofInt_natCast]
      exact BitVec.eq_of_toNat_eq (by simp)
    rw [BitVec.ofInt_mul, ofInt_toNat, ← hpow, BitVec.shiftLeft_eq_mul_twoPow]

/-- The effective address is the sum of rule R62, taken modulo 2^64 once: every summand is. -/
theorem ea_eq_ofInt (s : State) (len scale : Nat) (m : Mem) :
    s.ea len scale m = BitVec.ofInt 64 (eaInt s len scale m) := by
  cases m with
  | base d b => rw [State.ea, eaInt, BitVec.ofInt_add, ofInt_toNat, dispValue_eq_ofInt]
  | rip d => rw [State.ea, eaInt, BitVec.ofInt_add, BitVec.ofInt_add, ofInt_toNat, BitVec.ofInt_natCast]; rfl
  | sib d sc i b =>
    rw [State.ea, eaInt, BitVec.ofInt_add, BitVec.ofInt_add, ofInt_toNat, indexValue_eq_ofInt, dispValue_eq_ofInt]
  | sibNoBase sc i d => rw [State.ea, eaInt, BitVec.ofInt_add, indexValue_eq_ofInt]; rfl

/-! ### Refusals at execution -/

/-- Around a body that refuses nothing, the mode and the register views are what is refused. -/
theorem enter_refused_iff {s : State} {w : Needs} {regs : List (BitVec 5)} {body : Result}
    (hbody : ∀ r, body ≠ .refused r) (r : Refusal) :
    enter s w regs body = .refused r ↔
      (s.params.mode = .mode32 ∧ r = .modeNotModelled) ∨
      (s.params.mode = .mode64 ∧ enableFault s.params w regs = none ∧ viewsExist s.params w = false ∧
        r = .viewAbsent) := by
  cases hm : s.params.mode with
  | mode32 => simp [enter, hm, eq_comm (a := r)]
  | mode64 =>
    cases he : enableFault s.params w regs with
    | some x => simp [enter, hm, he, raise]
    | none =>
      cases hv : viewsExist s.params w with
      | true => simp [enter, hm, he, hv, hbody]
      | false => simp [enter, hm, he, hv, eq_comm (a := r)]

theorem mf_passes_iff {p : Params} {i : Instr} :
    (p.x87Pending && i.needs.cls == .mmx) = false ↔ (i.osClass = .mmx → p.x87Pending = false) := by
  cases p.x87Pending <;> simp [Instr.needs]

/-! ### The step on a verdict -/

theorem fetch_eq_fetched {s : State} (hm : s.params.mode = .mode64)
    (ha : accessibleByte s.params .fetch s.rip = true) : s.fetch = s.fetched s.window (decode s.window) := by
  simp [State.fetch, hm, ha]

theorem step_of_fetch_fault {s : State} {x : Fault} (h : s.fetch = .fault x) : step s = .fault x := by
  rw [step, h]

theorem step_of_fetch_refused {s : State} {r : Refusal} (h : s.fetch = .refused r) : step s = .refused r := by
  rw [step, h]

/-- The fetched bytes stand in memory, and may be fetched. -/
theorem holds_fetchFrom (s : State) (a : Addr) (n : Nat) : Holds s a (s.fetchFrom a n) := by
  induction n generalizing a with
  | zero => exact fun k hk => absurd hk (Nat.not_lt_zero k)
  | succ n ih =>
    intro k hk
    cases ha : accessibleByte s.params .fetch a with
    | false => simp [State.fetchFrom, ha] at hk
    | true =>
      simp only [State.fetchFrom, ha, if_true] at hk ⊢
      cases k with
      | zero => simpa using ha
      | succ k =>
        have hrest := ih (a + 1#64) k (Nat.lt_of_succ_lt_succ hk)
        rwa [add_one_add_ofNat] at hrest

theorem fetchFrom_length_le (s : State) (a : Addr) (n : Nat) : (s.fetchFrom a n).length ≤ n := by
  induction n generalizing a with
  | zero => exact Nat.le_refl 0
  | succ n ih =>
    unfold State.fetchFrom
    split
    · exact Nat.succ_le_succ (ih _)
    · exact Nat.zero_le _

/-- Where fewer bytes are fetched than asked for, the next one cannot be. -/
theorem not_accessible_of_fetchFrom_short {s : State} {a : Addr} {n : Nat} (h : (s.fetchFrom a n).length < n) :
    accessibleByte s.params .fetch (a + BitVec.ofNat 64 (s.fetchFrom a n).length) = false := by
  induction n generalizing a with
  | zero => exact absurd h (Nat.not_lt_zero _)
  | succ n ih =>
    cases ha : accessibleByte s.params .fetch a with
    | false => simp [State.fetchFrom, ha]
    | true =>
      simp only [State.fetchFrom, ha, if_true, List.length_cons] at h ⊢
      rw [← add_one_add_ofNat]
      exact ih (Nat.lt_of_succ_lt_succ h)

end Sys2Proof.Machine

namespace Sys2Proof.Claims

open Sys2Proof.Machine

/-- Settles O44: the length of each form, with at most five bytes of operand and one of immediate. -/
theorem lengthsAreBounded : Obligations.LengthsAreBounded := by
  intro i
  rw [lengthBounds, encode_length]
  cases i with
  | psrawMmRm rex d c | psradMmRm rex d c => exact legacyLen_bounds _ _ c.len_le
  | psrawXmmRm rex d c | psradXmmRm rex d c => exact legacyLen_bounds _ _ c.len_le
  | psrawMmImm | psradMmImm | psrawXmmImm | psradXmmImm => exact legacyLen_bounds _ _ (by decide)
  | vpsrawXmmRm f d s c | vpsradXmmRm f d s c | vpsrawYmmRm f d s c | vpsradYmmRm f d s c =>
    exact vexLen_bounds f c.len_le
  | vpsrawXmmImm f | vpsradXmmImm f | vpsrawYmmImm f | vpsradYmmImm f => exact vexLen_bounds f (by decide)
  | evpsrawXmmRm w m d s c | evpsrawYmmRm w m d s c | evpsrawZmmRm w m d s c =>
    exact evexLen_bounds (c.len_le.trans (by decide))
  | evpsradXmmRm m d s c | evpsradYmmRm m d s c | evpsradZmmRm m d s c | evpsraqXmmRm m d s c | evpsraqYmmRm m d s c
  | evpsraqZmmRm m d s c => exact evexLen_bounds (c.len_le.trans (by decide))
  | evpsrawXmmImm w m d s imm | evpsrawYmmImm w m d s imm | evpsrawZmmImm w m d s imm =>
    exact evexLen_bounds (Nat.succ_le_succ s.len_le)
  | evpsradXmmImm m d s imm | evpsradYmmImm m d s imm | evpsradZmmImm m d s imm | evpsraqXmmImm m d s imm
  | evpsraqYmmImm m d s imm | evpsraqZmmImm m d s imm => exact evexLen_bounds (Nat.succ_le_succ s.len_le)

/-- Settles O20: each summand is its integer modulo 2^64. -/
theorem effectiveAddressesWrap : Obligations.EffectiveAddressesWrap := by
  intro s len scale m
  rw [ea_eq_ofInt, BitVec.toNat_ofInt]
  exact Int.toNat_of_nonneg (Int.emod_nonneg _ (by decide))

/-- Settles O36: an instruction is the enable checks around a body that refuses nothing. -/
theorem executionIsRefusedOnlyHere : Obligations.ExecutionIsRefusedOnlyHere := by
  intro i s r
  obtain ⟨body, hexec, hbody⟩ := exec_eq_enter i s
  rw [hexec, enter_refused_iff hbody.notRefused, enableFault_eq_none, mf_passes_iff, undefined_iff, viewsPresent_iff]
  simp only [Bool.not_eq_true, and_assoc]

/-- Settles O56: the mode comes first in `exec`, and behind the fetch of one byte in the step. -/
theorem otherModesAreRefused : Obligations.OtherModesAreRefused := by
  intro s i hm
  refine ⟨?_, fun ha => step_of_fetch_refused (by simp [State.fetch, hm, ha])⟩
  obtain ⟨body, hexec, -⟩ := exec_eq_enter i s
  exact hexec.trans (enter_mode32 _ _ body hm)

/-- Settles O54: what is fetched decides, and it ends at the first byte that cannot be fetched. -/
theorem verdictsBecomeOutcomes : Obligations.VerdictsBecomeOutcomes := by
  intro s hm ha
  have hfetch := fetch_eq_fetched hm ha
  refine ⟨fun h => ?_, fun h => ?_, fun b h => ?_, fun b h => ?_, fun h => ?_, holds_fetchFrom s s.rip maxLen⟩
  · exact step_of_fetch_fault (by rw [hfetch, h]; rfl)
  · exact step_of_fetch_refused (by rw [hfetch, h]; rfl)
  · exact step_of_fetch_refused (by rw [hfetch, h]; rfl)
  · exact step_of_fetch_refused (by rw [hfetch, h]; rfl)
  · rw [h] at hfetch
    obtain hshort | hfull := Nat.lt_or_eq_of_le (fetchFrom_length_le s s.rip maxLen)
    · exact .inr ⟨hshort, not_accessible_of_fetchFrom_short hshort,
        step_of_fetch_fault (hfetch.trans (if_pos hshort))⟩
    · exact .inl ⟨hfull, step_of_fetch_fault (hfetch.trans (if_neg (Nat.not_lt.2 hfull.ge)))⟩

end Sys2Proof.Claims
end

section
/-! PROOFS. The lane functions of 40_shift_core.md bit by bit and as numbers, and the step on bytes that decode. -/

namespace Sys2Proof.Machine

open Sys2Proof.Claims

/-! ### The lane function as a number -/

/-- Counting down from the top of `p * b` values, a quotient by `p` counts down from the top of `b`. -/
theorem mul_sub_one_sub_div {p b x : Nat} (h : x < p * b) :
    p * b - 1 - (p * b - 1 - x) / p = (p - 1) * b + x / p := by
  have hq : x / p < b := Nat.div_lt_of_lt_mul h
  have hdiv : (p * b - 1 - x) / p = b - (x / p + 1) := by
    rw [Nat.sub_sub, Nat.add_comm 1 x, Nat.mul_sub_div x p b h]
  have hp : (p - 1) * b + b = p * b := by
    rw [← Nat.succ_mul, Nat.succ_eq_add_one, Nat.sub_add_cancel (Nat.pos_of_mul_pos_right (Nat.zero_lt_of_lt h))]
  rw [hdiv, ← hp]
  generalize x / p = q at hq
  omega

/-- Shifting a lane whose sign is set by at most its width puts that many ones above what is left (rule R90). -/
theorem toNat_sshiftRight_of_msb {n c : Nat} {x : BitVec n} (hc : c ≤ n) (hm : x.msb = true) :
    (x.sshiftRight c).toNat = (2 ^ c - 1) * 2 ^ (n - c) + x.toNat / 2 ^ c := by
  have hpow : 2 ^ n = 2 ^ c * 2 ^ (n - c) := by rw [← Nat.pow_add, Nat.add_sub_cancel' hc]
  rw [BitVec.toNat_sshiftRight_of_msb_true hm, Nat.shiftRight_eq_div_pow, hpow]
  exact mul_sub_one_sub_div (hpow ▸ x.isLt)

/-- Past the last bit the lane is its sign throughout (rule R90). -/
theorem sra_of_gt {n c : Nat} (x : BitVec n) (hc : c > n - 1) :
    sra x c = if x.msb then BitVec.allOnes n else 0#n :=
  if_pos hc

theorem sra_of_le {n c : Nat} (x : BitVec n) (hc : c ≤ n - 1) : sra x c = x.sshiftRight c :=
  if_neg (Nat.not_lt.2 hc)

/-! ### The bits of a lane -/

theorem getLsbD_lane (n : Nat) {vl : Nat} (v : BitVec vl) (j : Nat) {i : Nat} (hi : i < n) :
    (lane n v j).getLsbD i = v.getLsbD (n * j + i) := by
  simp [lane, hi]

theorem msb_lane {n : Nat} {vl : Nat} (v : BitVec vl) (j : Nat) (hn : 0 < n) :
    (lane n v j).msb = v.getLsbD (n * j + n - 1) := by
  rw [BitVec.msb_eq_getLsbD_last, getLsbD_lane n v j (Nat.sub_one_lt_of_lt hn), ← Nat.add_sub_assoc hn]

/-- The bits of a packed shift: those of the shifted source lane, so none comes from another lane (rule R93). -/
theorem getLsbD_packedSra {n vl j i : Nat} (v : BitVec vl) (c : Nat) (hj : j < vl / n) (hi : i < n) :
    (packedSra n v c).getLsbD (n * j + i) =
      if i + c < n then v.getLsbD (n * j + i + c) else v.getLsbD (n * j + n - 1) := by
  rw [← getLsbD_lane n _ j hi, lane_packedSra n v c j hj, getLsbD_sra _ c i hi, Nat.add_comm c i]
  split
  next hic => rw [getLsbD_lane n v j hic, Nat.add_assoc]
  next => exact msb_lane v j (Nat.zero_lt_of_lt hi)

/-! ### The step on bytes that decode -/

theorem step_of_fetch_next {s : State} {i : Instr} (h : s.fetch = .next i) : step s = exec i s := by
  rw [step, h]

theorem holds_cons {s : State} {a : Addr} {b : Byte} {bs : List Byte} (h : Holds s a (b :: bs)) :
    accessibleByte s.params .fetch a = true ∧ s.byteAt a = b ∧ Holds s (a + 1#64) bs := by
  obtain ⟨hacc, hbyte⟩ := h 0 (Nat.succ_pos _)
  rw [BitVec.add_zero] at hacc hbyte
  refine ⟨hacc, hbyte, fun k hk => ?_⟩
  rw [add_one_add_ofNat]
  exact h (k + 1) (Nat.succ_lt_succ hk)

/-- Bytes that stand at an address and can be fetched are the first fetched there, whatever is fetched behind them. -/
theorem fetchFrom_eq_append_of_holds {s : State} {a : Addr} {bs : List Byte} {n : Nat} (h : Holds s a bs)
    (hlen : bs.length ≤ n) : ∃ rest, s.fetchFrom a n = bs ++ rest := by
  induction bs generalizing a n with
  | nil => exact ⟨_, rfl⟩
  | cons b bs ih =>
    obtain ⟨hacc, hbyte, hrest⟩ := holds_cons h
    cases n with
    | zero => exact absurd hlen (Nat.not_succ_le_zero _)
    | succ n =>
      obtain ⟨rest, hfetched⟩ := ih hrest (Nat.le_of_succ_le_succ hlen)
      exact ⟨rest, by simp [State.fetchFrom, hacc, hbyte, hfetched]⟩

end Sys2Proof.Machine

namespace Sys2Proof.Claims

open Sys2Proof.Machine

/-- Settles O14: past the last bit the sign alone is left, before it the top bits are a quotient, under the sign copies. -/
theorem laneShiftCopiesTheSign : Obligations.LaneShiftCopiesTheSign := by
  intro n _ x c
  split
  next hc => rw [sra_of_gt x hc]; split <;> simp
  next hc =>
    have hle : c ≤ n - 1 := Nat.not_lt.1 hc
    rw [sra_of_le x hle]
    cases hm : x.msb with
    | true => exact toNat_sshiftRight_of_msb (hle.trans (Nat.sub_le n 1)) hm
    | false => simp [BitVec.toNat_sshiftRight_of_msb_false hm, Nat.shiftRight_eq_div_pow]

/-- Settles O15: lane by lane, and then each lane bit by bit. -/
theorem packedShiftStaysInLanes : Obligations.PackedShiftStaysInLanes :=
  fun n _ _ _ v c j _ hj hi => ⟨lane_packedSra n v c j hj, getLsbD_packedSra v c hj hi⟩

/-- Settles O52: the fetch answers the decoded instruction, and the step executes it. -/
theorem stepRunsTheDecodedInstruction : Obligations.StepRunsTheDecodedInstruction := by
  intro s i hm ha hdec
  refine step_of_fetch_next ?_
  rw [fetch_eq_fetched hm ha, hdec, State.fetched]

/-- The lengths of the classes lie between one byte and the most the step fetches (rules R50, R66). -/
theorem encode_length_pos_le_maxLen (i : Instr) : 0 < (encode i).length ∧ (encode i).length ≤ maxLen := by
  have hb := lengthsAreBounded i
  unfold lengthBounds at hb
  unfold maxLen
  split at hb <;> omega

/-- Settles O53: the encoding begins what is fetched, and decodes to its instruction whatever follows it. -/
theorem stepRunsTheStoredInstruction : Obligations.StepRunsTheStoredInstruction := by
  intro s i hm hwf hholds
  obtain ⟨hpos, hmax⟩ := encode_length_pos_le_maxLen i
  obtain ⟨hfirst, -⟩ := hholds 0 hpos
  rw [BitVec.add_zero] at hfirst
  obtain ⟨rest, hwindow⟩ := fetchFrom_eq_append_of_holds hholds hmax
  refine stepRunsTheDecodedInstruction s i hm hfirst ?_
  rw [State.window, hwindow, decode_encode hwf rest]

end Sys2Proof.Claims
end

section
/-! PROOFS. The legacy forms of 41_legacy_mmx_sse2.md complete: the count operand read as rule R92 words it, and what writing a
shifted register leaves. -/

namespace Sys2Proof.Machine

/-! ### Values in memory -/

/-- The low bytes of a little-endian value are those of the stretch it begins with (20_memory.md rule R31). -/
theorem readLE_add_mod (s : State) (a : Addr) (m n : Nat) : s.readLE a (m + n) % 256 ^ m = s.readLE a m := by
  induction m generalizing a with
  | zero => simp [State.readLE, Nat.mod_one]
  | succ m ih =>
    have hbyte : (s.byteAt a).toNat < 256 := (s.byteAt a).isLt
    have hlow : ((s.byteAt a).toNat + 256 * s.readLE (a + 1#64) (m + n)) % 256 = (s.byteAt a).toNat := by omega
    have hhigh : ((s.byteAt a).toNat + 256 * s.readLE (a + 1#64) (m + n)) / 256 = s.readLE (a + 1#64) (m + n) := by omega
    rw [Nat.add_right_comm, State.readLE, State.readLE, Nat.pow_succ', Nat.mod_mul, hlow, hhigh, ih]

/-- The number a load of 8 bytes gives. -/
theorem toNat_memRead_64 (s : State) (a : Addr) : (s.memRead 64 a).toNat = s.readLE a 8 := by
  have hlt := readLE_lt s a 8
  simpa [State.memRead] using hlt

/-- Of 16 bytes loaded, the first 8 count (40_shift_core.md rule R92). -/
theorem countOf_memRead (s : State) (a : Addr) : countOf (s.memRead 128 a) = s.readLE a 8 := by
  have hlow : s.readLE a 16 % 256 ^ 8 = s.readLE a 8 := readLE_add_mod s a 8 8
  calc countOf (s.memRead 128 a)
      = s.readLE a 16 % 2 ^ 128 % 2 ^ 64 := by simp [countOf, State.memRead]
    _ = s.readLE a 16 % 2 ^ 64 := Nat.mod_mod_of_dvd _ (Nat.pow_dvd_pow 2 (by decide))
    _ = s.readLE a 8 := hlow

/-! ### Count operands, from the spec's words to the meanings' -/

/-- A 64-bit count operand as rule R92 words it is what the MMX rows read. -/
theorem countMm_of_mmCount {s : State} {i : Instr} {c : Nat} {cnt : RegMem 3} (h : MmCount s i c cnt) :
    s.countMm i.len cnt = .ok c := by
  cases cnt with
  | reg r =>
    obtain rfl : c = (s.readMm r).toNat := h
    rfl
  | mem m =>
    simp only [MmCount, encode_length] at h
    obtain ⟨hacc, hal, rfl⟩ := h
    have hchecked : (s.params.acEnabled && (s.ea i.len 1 m).toNat % 8 != 0) = false := by simpa using hal
    simp [State.countMm, hchecked, load_ok (w := 64) hacc, toNat_memRead_64]

/-- A 128-bit count operand as rule R92 words it is what the other rows read; those that check its alignment are rows 2 and 6
(20_memory.md rule R36). -/
theorem countXmm_of_xmmCount {s : State} {i : Instr} {scale c : Nat} {cnt : RegMem 5} (h : XmmCount s i scale c cnt) :
    s.countXmm i.alignedRow i.len scale cnt = .ok c := by
  cases cnt with
  | reg r =>
    obtain rfl : c = ((s.readVr r).extractLsb' 0 64).toNat := h
    simp [State.countXmm, countOf, State.view, BitVec.extractLsb'_extractLsb'_of_le]
  | mem m =>
    simp only [XmmCount, encode_length] at h
    obtain ⟨hacc, hal, rfl⟩ := h
    have hchecked : (i.alignedRow && (s.ea i.len scale m).toNat % 16 != 0) = false := by simpa using hal
    simp [State.countXmm, hchecked, load_ok (w := 128) hacc, countOf_memRead]

/-! ### What writing a register leaves -/

theorem onlyMm_setMm (s : State) (d : BitVec 3) (v : BitVec 64) (len : Nat) : OnlyMm d s ((s.setMm d v).advance len) where
  mm _ hr := readMm_setMm_ne s v hr
  vr _ := rfl
  k _ := rfl
  gpr _ := rfl
  rflags := rfl
  mxcsr := rfl
  params := rfl
  mem _ := rfl

theorem onlyVr_setVr (s : State) (d : BitVec 5) (v : VrWord) (len : Nat) : OnlyVr d s ((s.setVr d v).advance len) where
  vr _ hr := readVr_setVr_ne s v hr
  mm _ := rfl
  k _ := rfl
  gpr _ := rfl
  rflags := rfl
  mxcsr := rfl
  params := rfl
  mem _ := rfl

/-- Writing an MMX register and moving `rip` behind the instruction has the effect of the lanes written. -/
theorem mmEffect_setMm (s : State) (i : Instr) (d : BitVec 3) {n : Nat} {v : BitVec 64} {value : Nat → BitVec n}
    (h : ∀ j, j < 64 / n → lane n v j = value j) : MmEffect n d value i s ((s.setMm d v).advance i.len) where
  lanes j hj := by simpa using h j hj
  rip := by simp [encode_length]
  frame := onlyMm_setMm s d v i.len

/-- Writing the low bits of a vector register and keeping those above has the effect of the lanes written (10_state.md
rule R11, legacy 128-bit). -/
theorem vrEffect_setVr_keepUpper (s : State) (i : Instr) (d : BitVec 5) {n vl : Nat} (hvl : vl ≤ 512) {r : BitVec vl}
    {value : Nat → BitVec n} (h : ∀ j, j < vl / n → lane n r j = value j) :
    VrEffect n vl d value (kept s d) i s ((s.setVr d (keepUpper (s.readVr d) r)).advance i.len) where
  lanes j hj := by simpa [view_keepUpper _ r hvl] using h j hj
  upper k hk _ := by simpa [kept] using upper_keepUpper (s.readVr d) r k hk
  rip := by simp [encode_length]
  frame := onlyVr_setVr s d _ i.len

end Sys2Proof.Machine

namespace Sys2Proof.Claims

open Sys2Proof.Machine

/-! ### One proof for each operand form -/

/-- A row that runs as `mmxByRm` completes with its lanes shifted (rules R100, R104). -/
theorem mmxByOperand_of_exec {n : Nat} {row : Bool → BitVec 3 → RegMem 3 → Instr}
    (hexec : ∀ rex d cnt, exec (row rex d cnt) = mmxByRm n rex d cnt)
    (hlen : ∀ rex d cnt, (row rex d cnt).len = legacyLen false rex cnt.len 0) : MmxByOperand n row := by
  intro s rex d cnt c hr hc
  have hbody := exec_of_ready hr (congrFun (hexec rex d cnt) s)
  rw [← hlen rex d cnt, countMm_of_mmCount hc, withOperand_ok] at hbody
  exact ⟨_, hbody, mmEffect_setMm s _ d fun j hj => lane_packedSra n (s.readMm d) c j hj⟩

/-- A row that runs as `mmxByImm` completes with its lanes shifted (rules R102, R106). -/
theorem mmxByImmediate_of_exec {n : Nat} {row : Bool → BitVec 3 → BitVec 8 → Instr}
    (hexec : ∀ rex d imm, exec (row rex d imm) = mmxByImm n rex d imm)
    (hlen : ∀ rex d imm, (row rex d imm).len = legacyLen false rex 0 1) : MmxByImmediate n row := by
  intro s rex d imm hr
  have hbody := exec_of_ready hr (congrFun (hexec rex d imm) s)
  rw [← hlen rex d imm] at hbody
  exact ⟨_, hbody, mmEffect_setMm s _ d fun j hj => lane_packedSra n (s.readMm d) imm.toNat j hj⟩

/-- A row that runs as `sseByRm` completes with the lanes of bits 127:0 shifted and the bits above kept (rules R101, R105). -/
theorem sseByOperand_of_exec {n : Nat} {row : Bool → BitVec 4 → RegMem 4 → Instr}
    (hexec : ∀ rex d cnt, exec (row rex d cnt) = sseByRm n rex d cnt)
    (hlen : ∀ rex d cnt, (row rex d cnt).len = legacyLen true rex cnt.len 0)
    (haligned : ∀ rex d cnt, (row rex d cnt).alignedRow = true) : SseByOperand n row := by
  intro s rex d cnt c hr hc
  have hbody := exec_of_ready hr (congrFun (hexec rex d cnt) s)
  rw [← hlen rex d cnt, ← haligned rex d cnt, countXmm_of_xmmCount hc, withOperand_ok] at hbody
  exact ⟨_, hbody, vrEffect_setVr_keepUpper s _ _ (by decide) fun j hj => lane_packedSra n _ c j hj⟩

/-- A row that runs as `sseByImm` completes with the lanes of bits 127:0 shifted and the bits above kept (rules R103, R107). -/
theorem sseByImmediate_of_exec {n : Nat} {row : Bool → BitVec 4 → BitVec 8 → Instr}
    (hexec : ∀ rex d imm, exec (row rex d imm) = sseByImm n rex d imm)
    (hlen : ∀ rex d imm, (row rex d imm).len = legacyLen true rex 0 1) : SseByImmediate n row := by
  intro s rex d imm hr
  have hbody := exec_of_ready hr (congrFun (hexec rex d imm) s)
  rw [← hlen rex d imm] at hbody
  exact ⟨_, hbody, vrEffect_setVr_keepUpper s _ _ (by decide) fun j hj => lane_packedSra n _ imm.toNat j hj⟩

/-- Settles O1: both rows run as the one MMX operation on a count operand. -/
theorem mmxShiftsByOperand : Obligations.MmxShiftsByOperand :=
  ⟨mmxByOperand_of_exec (fun _ _ _ => rfl) fun _ _ _ => rfl,
    mmxByOperand_of_exec (fun _ _ _ => rfl) fun _ _ _ => rfl⟩

/-- Settles O2: both rows run as the one MMX operation on an immediate. -/
theorem mmxShiftsByImmediate : Obligations.MmxShiftsByImmediate :=
  ⟨mmxByImmediate_of_exec (fun _ _ _ => rfl) fun _ _ _ => rfl,
    mmxByImmediate_of_exec (fun _ _ _ => rfl) fun _ _ _ => rfl⟩

/-- Settles O3: both rows run as the one legacy 128-bit operation on a count operand, which they check for alignment. -/
theorem sseShiftsByOperand : Obligations.SseShiftsByOperand :=
  ⟨sseByOperand_of_exec (fun _ _ _ => rfl) (fun _ _ _ => rfl) fun _ _ _ => rfl,
    sseByOperand_of_exec (fun _ _ _ => rfl) (fun _ _ _ => rfl) fun _ _ _ => rfl⟩

/-- Settles O4: both rows run as the one legacy 128-bit operation on an immediate. -/
theorem sseShiftsByImmediate : Obligations.SseShiftsByImmediate :=
  ⟨sseByImmediate_of_exec (fun _ _ _ => rfl) fun _ _ _ => rfl,
    sseByImmediate_of_exec (fun _ _ _ => rfl) fun _ _ _ => rfl⟩

end Sys2Proof.Claims
end

section
/-! PROOFS. The VEX forms of 42_vex_avx_avx2.md complete: the source shifted, and the bits above the vector length zeroed. -/

namespace Sys2Proof.Machine

/-- Writing the low bits of a vector register and zeroing those above has the effect of the lanes written (10_state.md
rule R11, VEX and EVEX). -/
theorem vrEffect_setVr_zeroUpper (s : State) (i : Instr) (d : BitVec 5) {n vl : Nat} (hvl : vl ≤ 512) {r : BitVec vl}
    {value : Nat → BitVec n} (h : ∀ j, j < vl / n → lane n r j = value j) :
    VrEffect n vl d value zeroed i s ((s.setVr d (zeroUpper r)).advance i.len) where
  lanes j hj := by simpa [view_zeroUpper r hvl] using h j hj
  upper k hk _ := by simpa [zeroed] using upper_zeroUpper r k hk
  rip := by simp [encode_length]
  frame := onlyVr_setVr s d _ i.len

end Sys2Proof.Machine

namespace Sys2Proof.Claims

open Sys2Proof.Machine

/-! ### One proof for each operand form -/

/-- A row that runs as `vexByRm`, which never checks its count's alignment, completes with the lanes of the source shifted and
the bits above the vector length zeroed (rules R110, R112, R114, R116). -/
theorem vexByOperand_of_exec {n vl : Nat} {row : VexForm → BitVec 4 → BitVec 4 → RegMem 4 → Instr} (hvl : vl ≤ 512)
    (hexec : ∀ f d src cnt, exec (row f d src cnt) = vexByRm n vl f d src cnt)
    (hlen : ∀ f d src cnt, (row f d src cnt).len = vexLen f cnt.len 0)
    (haligned : ∀ f d src cnt, (row f d src cnt).alignedRow = false) : VexByOperand n vl row := by
  intro s f d src cnt c hr hc
  have hbody := exec_of_ready hr (congrFun (hexec f d src cnt) s)
  rw [← hlen f d src cnt, ← haligned f d src cnt, countXmm_of_xmmCount hc, withOperand_ok] at hbody
  exact ⟨_, hbody, vrEffect_setVr_zeroUpper s _ _ hvl fun j hj => lane_packedSra n _ c j hj⟩

/-- A row that runs as `vexByImm` completes with the lanes of the source shifted and the bits above the vector length zeroed
(rules R111, R113, R115, R117). -/
theorem vexByImmediate_of_exec {n vl : Nat} {row : VexForm → BitVec 4 → BitVec 4 → BitVec 8 → Instr} (hvl : vl ≤ 512)
    (hexec : ∀ f d src imm, exec (row f d src imm) = vexByImm n vl f d src imm)
    (hlen : ∀ f d src imm, (row f d src imm).len = vexLen f 0 1) : VexByImmediate n vl row := by
  intro s f d src imm hr
  have hbody := exec_of_ready hr (congrFun (hexec f d src imm) s)
  rw [← hlen f d src imm] at hbody
  exact ⟨_, hbody, vrEffect_setVr_zeroUpper s _ _ hvl fun j hj => lane_packedSra n _ imm.toNat j hj⟩

/-- Settles O5: the four rows run as the one VEX operation on a count operand, at their lane widths and vector lengths. -/
theorem vexShiftsByOperand : Obligations.VexShiftsByOperand :=
  ⟨vexByOperand_of_exec (by decide) (fun _ _ _ _ => rfl) (fun _ _ _ _ => rfl) fun _ _ _ _ => rfl,
    vexByOperand_of_exec (by decide) (fun _ _ _ _ => rfl) (fun _ _ _ _ => rfl) fun _ _ _ _ => rfl,
    vexByOperand_of_exec (by decide) (fun _ _ _ _ => rfl) (fun _ _ _ _ => rfl) fun _ _ _ _ => rfl,
    vexByOperand_of_exec (by decide) (fun _ _ _ _ => rfl) (fun _ _ _ _ => rfl) fun _ _ _ _ => rfl⟩

/-- Settles O6: the four rows run as the one VEX operation on an immediate, at their lane widths and vector lengths. -/
theorem vexShiftsByImmediate : Obligations.VexShiftsByImmediate :=
  ⟨vexByImmediate_of_exec (by decide) (fun _ _ _ _ => rfl) fun _ _ _ _ => rfl,
    vexByImmediate_of_exec (by decide) (fun _ _ _ _ => rfl) fun _ _ _ _ => rfl,
    vexByImmediate_of_exec (by decide) (fun _ _ _ _ => rfl) fun _ _ _ _ => rfl,
    vexByImmediate_of_exec (by decide) (fun _ _ _ _ => rfl) fun _ _ _ _ => rfl⟩

end Sys2Proof.Claims
end

section
/-! PROOFS. The EVEX forms of 43_evex_vpsraw.md complete: what the writemask selects, and a source read from memory lane by lane.
An EVEX form without writemask and the VEX form of the same shift. -/

namespace Sys2Proof.Machine

/-! ### The writemask -/

theorem selected_iff {s : State} {m : Mask} {j : Nat} :
    s.selected m j = true ↔ m.k = 0#3 ∨ (s.readK m.k).getLsbD j = true := by
  simp [State.selected]

/-- What the meanings write in a lane is what rule R94 says of it, where `result` gives the lanes the mask selects from. -/
theorem lane_masked_eq_underMask (s : State) {n vl : Nat} (m : Mask) (d : BitVec 5) {r : BitVec vl} {result : Nat → BitVec n}
    (h : ∀ j, j < vl / n → lane n r j = result j) {j : Nat} (hj : j < vl / n) :
    lane n (s.masked n m r (s.view vl d)) j = underMask s n vl m d result j := by
  simp only [lane_masked s n m r _ j hj, selected_iff, underMask, h j hj]

theorem ofLanes_congr {n vl : Nat} {f g : Nat → BitVec n} (h : ∀ j, j < vl / n → f j = g j) :
    ofLanes n vl f = ofLanes n vl g := by
  rw [ofLanes, ofLanes, lanesNat_congr h]

/-- Without a writemask, `EVEX.aaa = 000`, a packed shift is written whole (40_shift_core.md rule R94). -/
theorem masked_packedSra_of_no_mask (s : State) (n : Nat) {vl : Nat} {m : Mask} (hm : m.k = 0#3) (v : BitVec vl) (c : Nat)
    (old : BitVec vl) : s.masked n m (packedSra n v c) old = packedSra n v c :=
  ofLanes_congr fun j hj => by rw [if_pos (selected_iff.2 (.inl hm)), lane_packedSra n v c j hj]

/-! ### Lanes in memory -/

/-- The high bytes of a little-endian value are those of the stretch behind its low bytes (20_memory.md rule R31). -/
theorem readLE_add_div (s : State) (a : Addr) (m n : Nat) :
    s.readLE a (m + n) / 256 ^ m = s.readLE (a + BitVec.ofNat 64 m) n := by
  induction m generalizing a with
  | zero => simp
  | succ m ih =>
    have hbyte : (s.byteAt a).toNat < 256 := (s.byteAt a).isLt
    have hhigh : ((s.byteAt a).toNat + 256 * s.readLE (a + 1#64) (m + n)) / 256 = s.readLE (a + 1#64) (m + n) := by omega
    rw [Nat.add_right_comm, State.readLE, Nat.pow_succ', ← Nat.div_div_eq_div_mul, hhigh, ih, add_one_add_ofNat]

/-- The values of `8 * k` bits are those of `k` bytes. -/
theorem two_pow_eight_mul (k : Nat) : 2 ^ (8 * k) = 256 ^ k := Nat.pow_mul 2 8 k

theorem toNat_memRead (s : State) (k : Nat) (a : Addr) : (s.memRead (8 * k) a).toNat = s.readLE a k := by
  rw [State.memRead, BitVec.toNat_ofNat, Nat.mul_div_cancel_left k (by decide), two_pow_eight_mul,
    Nat.mod_eq_of_lt (readLE_lt s a k)]

/-- A lane of a vector loaded whole is the bytes that stand at its place in memory (20_memory.md rule R31). -/
theorem lane_memRead (s : State) {n vl : Nat} (hn : 8 ∣ n) (hvl : 8 ∣ vl) (a : Addr) {j : Nat} (hj : j < vl / n) :
    lane n (s.memRead vl a) j = memLane s n a j := by
  obtain ⟨b, rfl⟩ := hn
  obtain ⟨k, rfl⟩ := hvl
  have hj : j < k / b := by rwa [Nat.mul_div_mul_left k b (by decide)] at hj
  obtain ⟨r, hr⟩ := Nat.exists_eq_add_of_le (Nat.mul_le_of_le_div b (j + 1) k hj)
  have hbytes : 8 * b / 8 = b := Nat.mul_div_cancel_left b (by decide)
  apply BitVec.eq_of_toNat_eq
  calc (lane (8 * b) (s.memRead (8 * k) a) j).toNat
      = s.readLE a k / 256 ^ (j * b) % 256 ^ b := by
        rw [lane, BitVec.extractLsb'_toNat, toNat_memRead, Nat.shiftRight_eq_div_pow, Nat.mul_assoc, Nat.mul_comm b,
          two_pow_eight_mul, two_pow_eight_mul]
    _ = s.readLE (a + BitVec.ofNat 64 (j * b)) b := by
        rw [hr, Nat.succ_mul, Nat.add_assoc, readLE_add_div, readLE_add_mod]
    _ = (memLane s (8 * b) a j).toNat := by
        rw [memLane, hbytes, BitVec.toNat_ofNat, two_pow_eight_mul, Nat.mod_eq_of_lt (readLE_lt s _ b)]

/-- A tuple Full Mem source whose lanes are given by the spec's words is a vector of these lanes (40_shift_core.md rule R96). -/
theorem sourceFullMem_of_fullMemLanes {s : State} {i : Instr} {n vl : Nat} (hn : 8 ∣ n) (hvl : 8 ∣ vl)
    {value : Nat → BitVec n} {src : RegMem 5} (h : FullMemLanes s i n vl value src) :
    ∃ v, s.sourceFullMem vl i.len src = .ok v ∧ ∀ j, j < vl / n → lane n v j = value j := by
  cases src with
  | reg r =>
    obtain rfl : value = lane n (s.view vl r) := h
    exact ⟨_, rfl, fun _ _ => rfl⟩
  | mem m =>
    simp only [FullMemLanes, encode_length] at h
    obtain ⟨hacc, rfl⟩ := h
    exact ⟨_, load_ok hacc, fun j hj => lane_memRead s hn hvl _ hj⟩

/-- Writing a vector under the writemask and zeroing the bits above has the effect of the masked lanes (decisions D12, D13). -/
theorem vrEffect_setVr_masked (s : State) (i : Instr) (m : Mask) (d : BitVec 5) {n vl : Nat} (hvl : vl ≤ 512) {r : BitVec vl}
    {result : Nat → BitVec n} (h : ∀ j, j < vl / n → lane n r j = result j) :
    VrEffect n vl d (underMask s n vl m d result) zeroed i s
      ((s.setVr d (zeroUpper (s.masked n m r (s.view vl d)))).advance i.len) :=
  vrEffect_setVr_zeroUpper s i d hvl fun _ hj => lane_masked_eq_underMask s m d h hj

end Sys2Proof.Machine

namespace Sys2Proof.Claims

open Sys2Proof.Machine

/-! ### One proof for each operand form -/

/-- A row that runs as `evexByRm`, which never checks its count's alignment, completes with the selected lanes of the source
shifted by the count (rules R120 to R122, R130 to R132, R140 to R142). -/
theorem evexByOperand_of_exec {lf : Feature} {n vl : Nat} {row : Mask → BitVec 5 → BitVec 5 → RegMem 5 → Instr}
    (hvl : vl ≤ 512) (hexec : ∀ m d src cnt, exec (row m d src cnt) = evexByRm lf n vl m d src cnt)
    (hlen : ∀ m d src cnt, (row m d src cnt).len = evexLen cnt.len 0)
    (haligned : ∀ m d src cnt, (row m d src cnt).alignedRow = false) : EvexByOperand n vl row := by
  intro s m d src cnt c hr hc
  have hbody := exec_of_ready hr (congrFun (hexec m d src cnt) s)
  rw [← hlen m d src cnt, ← haligned m d src cnt, countXmm_of_xmmCount hc, withOperand_ok] at hbody
  exact ⟨_, hbody, vrEffect_setVr_masked s _ m d hvl fun j hj => lane_packedSra n _ c j hj⟩

/-- A row that runs as `evexFullMem` completes with the selected lanes of the source shifted by the immediate (rules R123 to
R125). -/
theorem evexFullMem_of_exec {lf : Feature} {n vl : Nat} {row : Mask → BitVec 5 → RegMem 5 → BitVec 8 → Instr}
    (hvl : vl ≤ 512) (hn8 : 8 ∣ n) (hvl8 : 8 ∣ vl)
    (hexec : ∀ m d src imm, exec (row m d src imm) = evexFullMem lf n vl m d src imm)
    (hlen : ∀ m d src imm, (row m d src imm).len = evexLen src.len 1) : EvexFullMem n vl row := by
  intro s m d src imm value hr hsrc
  obtain ⟨v, hv, hlanes⟩ := sourceFullMem_of_fullMemLanes hn8 hvl8 hsrc
  have hbody := exec_of_ready hr (congrFun (hexec m d src imm) s)
  rw [← hlen m d src imm, hv, withOperand_ok] at hbody
  exact ⟨_, hbody, vrEffect_setVr_masked s _ m d hvl fun j hj => by rw [lane_packedSra n v _ j hj, hlanes j hj]⟩

/-! ### A VEX row and its EVEX counterpart without writemask -/

/-- Two instructions that write the same vector to the same register, whatever their lengths. -/
theorem sameButRip_of_setVr {s : State} {i i' : Instr} {d : BitVec 5} {v : VrWord} {len len' : Nat}
    (h : ∀ t, exec i s = .next t → t = (s.setVr d v).advance len)
    (h' : ∀ t, exec i' s = .next t → t = (s.setVr d v).advance len') : SameButRip s i i' := by
  intro t t' ht ht'
  rw [h t ht, h' t' ht']
  rfl

theorem next_of_vexByRm_reg {i : Instr} {n vl : Nat} {f : VexForm} {d a c : BitVec 4}
    (hexec : exec i = vexByRm n vl f d a (.reg c)) {s t : State} (ht : exec i s = .next t) :
    t = (s.setVr (wide d) (zeroUpper (packedSra n (s.view vl (wide a)) (countOf (s.view 128 (wide c)))))).advance
      (vexLen f (RegMem.reg c).len 0) := by
  rw [hexec] at ht
  obtain ⟨-, count, hcount, ht⟩ := vexByRm_next ht
  cases hcount
  exact ht

theorem next_of_evexByRm_reg {i : Instr} {lf : Feature} {n vl : Nat} {m : Mask} {d a c : BitVec 5} (hm : m.k = 0#3)
    (hexec : exec i = evexByRm lf n vl m d a (.reg c)) {s t : State} (ht : exec i s = .next t) :
    t = (s.setVr d (zeroUpper (packedSra n (s.view vl a) (countOf (s.view 128 c))))).advance
      (evexLen (RegMem.reg c).len 0) := by
  rw [hexec] at ht
  obtain ⟨-, count, hcount, ht⟩ := evexByRm_next ht
  cases hcount
  rwa [masked_packedSra_of_no_mask s n hm] at ht

theorem next_of_vexByImm {i : Instr} {n vl : Nat} {f : VexForm} {d a : BitVec 4} {imm : BitVec 8}
    (hexec : exec i = vexByImm n vl f d a imm) {s t : State} (ht : exec i s = .next t) :
    t = (s.setVr (wide d) (zeroUpper (packedSra n (s.view vl (wide a)) imm.toNat))).advance (vexLen f 0 1) := by
  rw [hexec] at ht
  exact (vexByImm_next ht).2

theorem next_of_evexFullMem_reg {i : Instr} {lf : Feature} {n vl : Nat} {m : Mask} {d a : BitVec 5} {imm : BitVec 8}
    (hm : m.k = 0#3) (hexec : exec i = evexFullMem lf n vl m d (.reg a) imm) {s t : State} (ht : exec i s = .next t) :
    t = (s.setVr d (zeroUpper (packedSra n (s.view vl a) imm.toNat))).advance (evexLen (RegMem.reg a).len 1) := by
  rw [hexec] at ht
  obtain ⟨-, v, hv, ht⟩ := evexFullMem_next ht
  cases hv
  rwa [masked_packedSra_of_no_mask s n hm] at ht

theorem next_of_evexFull_reg {i : Instr} {lf : Feature} {n vl : Nat} {m : Mask} {d a : BitVec 5} {imm : BitVec 8}
    (hm : m.k = 0#3) (hexec : exec i = evexFull lf n vl m d (.reg a) imm) {s t : State} (ht : exec i s = .next t) :
    t = (s.setVr d (zeroUpper (packedSra n (s.view vl a) imm.toNat))).advance (evexLen (Source.reg a).len 1) := by
  rw [hexec] at ht
  obtain ⟨-, v, hv, ht⟩ := evexFull_next ht
  cases hv
  rwa [masked_packedSra_of_no_mask s n hm] at ht

/-- A shift by a count register, with VEX and with EVEX. -/
theorem sameButRip_byRm {s : State} {i i' : Instr} {lf : Feature} {n vl : Nat} {f : VexForm} {z : Bool} {d a c : BitVec 4}
    (hexec : exec i = vexByRm n vl f d a (.reg c))
    (hexec' : exec i' = evexByRm lf n vl ⟨0#3, z⟩ (wide d) (wide a) (.reg (wide c))) : SameButRip s i i' :=
  sameButRip_of_setVr (fun _ => next_of_vexByRm_reg hexec) fun _ => next_of_evexByRm_reg rfl hexec'

/-- A shift of words by an immediate, tuple Full Mem with EVEX. -/
theorem sameButRip_fullMem {s : State} {i i' : Instr} {lf : Feature} {n vl : Nat} {f : VexForm} {z : Bool}
    {d a : BitVec 4} {imm : BitVec 8} (hexec : exec i = vexByImm n vl f d a imm)
    (hexec' : exec i' = evexFullMem lf n vl ⟨0#3, z⟩ (wide d) (.reg (wide a)) imm) : SameButRip s i i' :=
  sameButRip_of_setVr (fun _ => next_of_vexByImm hexec) fun _ => next_of_evexFullMem_reg rfl hexec'

/-- A shift of doublewords by an immediate, tuple Full with EVEX. -/
theorem sameButRip_full {s : State} {i i' : Instr} {lf : Feature} {n vl : Nat} {f : VexForm} {z : Bool}
    {d a : BitVec 4} {imm : BitVec 8} (hexec : exec i = vexByImm n vl f d a imm)
    (hexec' : exec i' = evexFull lf n vl ⟨0#3, z⟩ (wide d) (.reg (wide a)) imm) : SameButRip s i i' :=
  sameButRip_of_setVr (fun _ => next_of_vexByImm hexec) fun _ => next_of_evexFull_reg rfl hexec'

/-- Settles O7: the three rows run as the one EVEX operation on a count operand, at words and their vector lengths. -/
theorem evexWordsShiftByOperand : Obligations.EvexWordsShiftByOperand := fun _ =>
  ⟨evexByOperand_of_exec (by decide) (fun _ _ _ _ => rfl) (fun _ _ _ _ => rfl) fun _ _ _ _ => rfl,
    evexByOperand_of_exec (by decide) (fun _ _ _ _ => rfl) (fun _ _ _ _ => rfl) fun _ _ _ _ => rfl,
    evexByOperand_of_exec (by decide) (fun _ _ _ _ => rfl) (fun _ _ _ _ => rfl) fun _ _ _ _ => rfl⟩

/-- Settles O8: the three rows run as the one EVEX operation on a tuple Full Mem source, at words and their vector lengths. -/
theorem evexWordsShiftByImmediate : Obligations.EvexWordsShiftByImmediate := fun _ =>
  ⟨evexFullMem_of_exec (by decide) (by decide) (by decide) (fun _ _ _ _ => rfl) fun _ _ _ _ => rfl,
    evexFullMem_of_exec (by decide) (by decide) (by decide) (fun _ _ _ _ => rfl) fun _ _ _ _ => rfl,
    evexFullMem_of_exec (by decide) (by decide) (by decide) (fun _ _ _ _ => rfl) fun _ _ _ _ => rfl⟩

/-- Settles O27: both rows of each pair write the packed shift of the same source by the same count, the writemask of `aaa = 000`
changing none of its lanes. -/
theorem unmaskedEvexAgreesWithVex : Obligations.UnmaskedEvexAgreesWithVex := by
  intro s f w z d a c imm
  exact ⟨sameButRip_byRm rfl rfl, sameButRip_byRm rfl rfl, sameButRip_byRm rfl rfl, sameButRip_byRm rfl rfl,
    sameButRip_fullMem rfl rfl, sameButRip_fullMem rfl rfl, sameButRip_full rfl rfl, sameButRip_full rfl rfl⟩

end Sys2Proof.Claims
end

section
/-! PROOFS. The EVEX forms of 44_evex_vpsrad.md complete: a source of tuple Full, which is a register, memory read lane by lane, or
one element broadcast. -/

namespace Sys2Proof.Machine

/-- The first lane in memory is an element loaded alone, as a broadcast loads it (20_memory.md rule R35). -/
theorem memLane_zero (s : State) (n : Nat) (a : Addr) : memLane s n a 0 = s.memRead n a := by
  simp [memLane, State.memRead]

/-- A tuple Full source whose lanes are given by the spec's words is a vector of these lanes, with FAULT_SUPPRESSION or without:
an operand that is accessible whole passes either check (40_shift_core.md rule R96). -/
theorem sourceFull_of_fullLanes {s : State} {i : Instr} {n vl : Nat} (hn : 8 ∣ n) (hvl : 8 ∣ vl) (m : Mask)
    {value : Nat → BitVec n} {src : Source} (h : FullLanes s i n vl value src) :
    ∃ v, s.sourceFull n vl i.len m src = .ok v ∧ ∀ j, j < vl / n → lane n v j = value j := by
  cases src with
  | reg r =>
    obtain rfl : value = lane n (s.view vl r) := h
    exact ⟨_, rfl, fun _ _ => rfl⟩
  | mem a =>
    simp only [FullLanes, encode_length] at h
    obtain ⟨hacc, rfl⟩ := h
    exact ⟨_, if_pos (fullAccess_of_accessible hacc), fun j hj => lane_memRead s hn hvl _ hj⟩
  | bcst a =>
    simp only [FullLanes, encode_length] at h
    obtain ⟨hacc, rfl⟩ := h
    exact ⟨_, if_pos (bcstAccess_of_accessible hacc), fun j hj => by rw [lane_broadcast vl _ j hj, memLane_zero]⟩

/-- A row that runs as `evexFull` completes with the selected lanes shifted wherever its source is read, whatever let the read
pass. -/
theorem exists_next_of_sourceFull {s : State} {i : Instr} {lf : Feature} {n vl : Nat} {m : Mask} {d : BitVec 5} {src : Source}
    {imm : BitVec 8} {v : BitVec vl} {value : Nat → BitVec n} (hvl : vl ≤ 512) (hexec : exec i = evexFull lf n vl m d src imm)
    (hlen : i.len = evexLen src.len 1) (hr : Ready s i) (hv : s.sourceFull n vl i.len m src = .ok v)
    (hlanes : ∀ j, j < vl / n → lane n v j = value j) :
    ∃ t, exec i s = .next t ∧ VrEffect n vl d (underMask s n vl m d fun j => sra (value j) imm.toNat) zeroed i s t := by
  have hbody := exec_of_ready hr (congrFun hexec s)
  rw [← hlen, hv, withOperand_ok] at hbody
  exact ⟨_, hbody, vrEffect_setVr_masked s i m d hvl fun j hj => by rw [lane_packedSra n v _ j hj, hlanes j hj]⟩

end Sys2Proof.Machine

namespace Sys2Proof.Claims

open Sys2Proof.Machine

/-- A row that runs as `evexFull` completes with the selected lanes of the source shifted by the immediate (rules R133 to R135,
R143 to R145). -/
theorem evexFull_of_exec {lf : Feature} {n vl : Nat} {row : Mask → BitVec 5 → Source → BitVec 8 → Instr}
    (hvl : vl ≤ 512) (hn8 : 8 ∣ n) (hvl8 : 8 ∣ vl)
    (hexec : ∀ m d src imm, exec (row m d src imm) = evexFull lf n vl m d src imm)
    (hlen : ∀ m d src imm, (row m d src imm).len = evexLen src.len 1) : EvexFull n vl row := by
  intro s m d src imm value hr hsrc
  obtain ⟨v, hv, hlanes⟩ := sourceFull_of_fullLanes hn8 hvl8 m hsrc
  exact exists_next_of_sourceFull hvl (hexec m d src imm) (hlen m d src imm) hr hv hlanes

/-- Settles O9: the three rows run as the one EVEX operation on a count operand, at doublewords and their vector lengths. -/
theorem evexDoublewordsShiftByOperand : Obligations.EvexDoublewordsShiftByOperand :=
  ⟨evexByOperand_of_exec (by decide) (fun _ _ _ _ => rfl) (fun _ _ _ _ => rfl) fun _ _ _ _ => rfl,
    evexByOperand_of_exec (by decide) (fun _ _ _ _ => rfl) (fun _ _ _ _ => rfl) fun _ _ _ _ => rfl,
    evexByOperand_of_exec (by decide) (fun _ _ _ _ => rfl) (fun _ _ _ _ => rfl) fun _ _ _ _ => rfl⟩

/-- Settles O10: the three rows run as the one EVEX operation on a tuple Full source, at doublewords and their vector lengths. -/
theorem evexDoublewordsShiftByImmediate : Obligations.EvexDoublewordsShiftByImmediate :=
  ⟨evexFull_of_exec (by decide) (by decide) (by decide) (fun _ _ _ _ => rfl) fun _ _ _ _ => rfl,
    evexFull_of_exec (by decide) (by decide) (by decide) (fun _ _ _ _ => rfl) fun _ _ _ _ => rfl,
    evexFull_of_exec (by decide) (by decide) (by decide) (fun _ _ _ _ => rfl) fun _ _ _ _ => rfl⟩

end Sys2Proof.Claims
end

section
/-! PROOFS. The EVEX forms of 45_evex_vpsraq.md complete: the quadword rows run as the operations of the doubleword rows, so their
proofs are those of 44_evex_vpsrad.md at lanes of 64 bits. -/

namespace Sys2Proof.Claims

/-- Settles O11: the three rows run as the one EVEX operation on a count operand, at quadwords and their vector lengths. -/
theorem evexQuadwordsShiftByOperand : Obligations.EvexQuadwordsShiftByOperand :=
  ⟨evexByOperand_of_exec (by decide) (fun _ _ _ _ => rfl) (fun _ _ _ _ => rfl) fun _ _ _ _ => rfl,
    evexByOperand_of_exec (by decide) (fun _ _ _ _ => rfl) (fun _ _ _ _ => rfl) fun _ _ _ _ => rfl,
    evexByOperand_of_exec (by decide) (fun _ _ _ _ => rfl) (fun _ _ _ _ => rfl) fun _ _ _ _ => rfl⟩

/-- Settles O12: the three rows run as the one EVEX operation on a tuple Full source, at quadwords and their vector lengths. -/
theorem evexQuadwordsShiftByImmediate : Obligations.EvexQuadwordsShiftByImmediate :=
  ⟨evexFull_of_exec (by decide) (by decide) (by decide) (fun _ _ _ _ => rfl) fun _ _ _ _ => rfl,
    evexFull_of_exec (by decide) (by decide) (by decide) (fun _ _ _ _ => rfl) fun _ _ _ _ => rfl,
    evexFull_of_exec (by decide) (by decide) (by decide) (fun _ _ _ _ => rfl) fun _ _ _ _ => rfl⟩

end Sys2Proof.Claims
end

section
/-! PROOFS. The exceptions of 60_exceptions.md: which enable check raises which fault, the class of every fault, what a fault does not
depend on, and the frame of a completed instruction. -/

namespace Sys2Proof.Machine

open Sys2Proof.Claims

/-! ### The enable checks, fault by fault -/

/-- The order of rule R156: #UD on its causes, #NM behind it, #MF behind both and on the MMX rows only. -/
theorem enableFault_eq_some_iff {p : Params} {w : Needs} {regs : List (BitVec 5)} {x : Fault} :
    enableFault p w regs = some x ↔
      (x = .ud ∧ udCause p w regs = true) ∨
      (x = .nm ∧ udCause p w regs = false ∧ p.tsSet = true) ∨
      (x = .mf ∧ udCause p w regs = false ∧ p.tsSet = false ∧ p.x87Pending = true ∧ w.cls = .mmx) := by
  cases hud : udCause p w regs with
  | true => simp [enableFault, hud, eq_comm (b := x)]
  | false =>
    cases hts : p.tsSet with
    | true => simp [enableFault, hud, hts, eq_comm (b := x)]
    | false => simp [enableFault, hud, hts, eq_comm (b := x), and_comm]

/-- A fault that no operand raises is one of the enable checks, in 64-bit mode. -/
theorem exec_eq_fault_iff_enableFault {i : Instr} {s : State} {x : Fault} (hx : ¬ OperandFault x) :
    exec i s = .fault x ↔ s.params.mode = .mode64 ∧ enableFault s.params i.needs i.vectorRegs = some x :=
  ⟨fun h => (exec_fault h).resolve_right fun ⟨_, hop⟩ => hx hop, fun ⟨hm, he⟩ => exec_of_enableFault hm he⟩

/-! ### The class of a fault -/

theorem faultOfClass_of_enableFault {p : Params} {i : Instr} {x : Fault}
    (h : enableFault p i.needs i.vectorRegs = some x) : FaultOfClass i x := by
  obtain ⟨rfl, -⟩ | ⟨rfl, -⟩ | ⟨rfl, -, -, -, hcls⟩ := enableFault_eq_some_iff.1 h
  · trivial
  · trivial
  · exact hcls

theorem faultOfClass_of_operandRaises {s : State} {i : Instr} {acc : Access} {x : Fault} (hacc : i.access = some acc)
    (h : OperandRaises s i acc x) : FaultOfClass i x := by
  have hsome : i.access.isSome = true := by rw [hacc]; rfl
  cases h with
  | misaligned hrow => exact ⟨hrow, hsome⟩
  | alignmentCheck | inaccessible => exact hsome

/-! ### What a fault depends on -/

theorem SameAddressing.ea {s t : State} (h : SameAddressing s t) (len scale : Nat) (m : Mem) :
    t.ea len scale m = s.ea len scale m := by
  cases m with
  | base | sib | sibNoBase => simp [State.ea, State.indexValue, h.gpr]
  | rip => simp [State.ea, h.rip]

/-- Two operands, of two states, that fail alike. -/
def FailAlike {α : Type} (o o' : Except Fault α) : Prop := ∀ x, o = .error x ↔ o' = .error x

theorem failAlike_countMm {s t : State} (h : SameAddressing s t) (len : Nat) (cnt : RegMem 3) :
    FailAlike (s.countMm len cnt) (t.countMm len cnt) := by
  intro x
  cases cnt with
  | reg r => exact ⟨nofun, nofun⟩
  | mem m => rw [countMm_mem_eq_error_iff, countMm_mem_eq_error_iff, h.ea, h.params]

theorem failAlike_countXmm {s t : State} (h : SameAddressing s t) (al : Bool) (len scale : Nat) (cnt : RegMem 5) :
    FailAlike (s.countXmm al len scale cnt) (t.countXmm al len scale cnt) := by
  intro x
  cases cnt with
  | reg r => exact ⟨nofun, nofun⟩
  | mem m => rw [countXmm_mem_eq_error_iff, countXmm_mem_eq_error_iff, h.ea, h.params]

theorem failAlike_sourceFullMem {s t : State} (h : SameAddressing s t) (vl len : Nat) (src : RegMem 5) :
    FailAlike (s.sourceFullMem vl len src) (t.sourceFullMem vl len src) := by
  intro x
  cases src with
  | reg r => exact ⟨nofun, nofun⟩
  | mem m =>
    rw [State.sourceFullMem, State.sourceFullMem, load_eq_error_iff, load_eq_error_iff, h.ea, h.params]

/-- The check of a tuple Full operand under FAULT_SUPPRESSION is one of its selected lanes (20_memory.md rule R47). -/
theorem lanesAccessible_eq_true_iff {s : State} {n : Nat} {m : Mask} {a : Addr} {k : Nat} :
    lanesAccessible s n m a k = true ↔ ∀ j, j < k → s.selected m j = true →
      accessible s.params .data (a + BitVec.ofNat 64 (j * (n / 8))) (n / 8) = true := by
  induction k with
  | zero => simp [lanesAccessible]
  | succ k ih =>
    rw [lanesAccessible, Bool.and_eq_true, ih, Nat.forall_lt_succ_right, and_comm]
    simp [imp_iff_not_or]

theorem sameSelection_of_readK {s t : State} (h : ∀ r, t.readK r = s.readK r) (m : Mask) (lanes : Nat) :
    SameSelection s t m lanes := by
  intro j _
  simp [State.selected, h]

/-- Opmask registers enter the check of a tuple Full operand under FAULT_SUPPRESSION only (20_memory.md rule R47). -/
theorem fullAccess_eq_of_sameAddressing {s t : State} (h : SameAddressing s t)
    (hk : s.params.faultSuppression = false ∨ ∀ r, t.readK r = s.readK r) (n vl : Nat) (m : Mask) (a : Addr) :
    fullAccess t n vl m a = fullAccess s n vl m a := by
  obtain hplain | hsame := hk
  · simp [fullAccess, h.params, hplain]
  · have hlanes : lanesAccessible t n m a (vl / n) = lanesAccessible s n m a (vl / n) := by
      rw [Bool.eq_iff_iff, lanesAccessible_eq_true_iff, lanesAccessible_eq_true_iff, h.params]
      simp [State.selected, hsame]
    simp [fullAccess, h.params, hlanes]

theorem bcstAccess_eq_of_sameAddressing {s t : State} (h : SameAddressing s t)
    (hk : s.params.faultSuppression = false ∨ ∀ r, t.readK r = s.readK r) (n vl : Nat) (m : Mask) (a : Addr) :
    bcstAccess t n vl m a = bcstAccess s n vl m a := by
  obtain hplain | hsame := hk
  · simp [bcstAccess, h.params, hplain]
  · simp [bcstAccess, h.params, (sameSelection_of_readK hsame m (vl / n)).anySelected]

theorem failAlike_of_check {α : Type} {check : Bool} (v v' : α) (x : Fault) :
    FailAlike (if check then .ok v else .error x) (if check then .ok v' else .error x) := by
  intro y
  cases check <;> simp

theorem failAlike_sourceFull {s t : State} (h : SameAddressing s t)
    (hk : s.params.faultSuppression = false ∨ ∀ r, t.readK r = s.readK r) (n vl len : Nat) (m : Mask) (src : Source) :
    FailAlike (s.sourceFull n vl len m src) (t.sourceFull n vl len m src) := by
  cases src with
  | reg r => exact fun x => ⟨nofun, nofun⟩
  | mem a =>
    rw [State.sourceFull, State.sourceFull, h.ea, fullAccess_eq_of_sameAddressing h hk]
    exact failAlike_of_check _ _ _
  | bcst a =>
    rw [State.sourceFull, State.sourceFull, h.ea, bcstAccess_eq_of_sameAddressing h hk]
    exact failAlike_of_check _ _ _

theorem withOperand_eq_fault_iff {α : Type} {o : Except Fault α} (f : α → State) {x : Fault} :
    withOperand o (fun v => .next (f v)) = .fault x ↔ o = .error x := by
  cases o <;> simp

/-- The enable checks ask the configuration alone, so they let the same faults through. -/
theorem enter_eq_fault_iff_of_params {s t : State} (hp : t.params = s.params) (w : Needs) (regs : List (BitVec 5))
    {body body' : Result} {x : Fault} (h : body = .fault x ↔ body' = .fault x) :
    enter s w regs body = .fault x ↔ enter t w regs body' = .fault x := by
  unfold enter
  rw [hp]
  split
  · exact ⟨nofun, nofun⟩
  · split
    · exact Iff.rfl
    · split
      · exact h
      · exact ⟨nofun, nofun⟩

/-- Behind enable checks that are the same in every state, an instruction reads one operand, which fails alike in two states that
address alike; where it does not fail, the instruction completes. -/
theorem exec_reads_operand_failing_alike (i : Instr) :
    ∃ (w : Needs) (regs : List (BitVec 5)) (α : Type) (o : State → Except Fault α) (f : State → α → State),
      (∀ s, exec i s = enter s w regs (withOperand (o s) fun v => .next (f s v))) ∧
      ∀ s t, SameAddressing s t → (s.params.faultSuppression = false ∨ ∀ r, t.readK r = s.readK r) →
        FailAlike (o s) (o t) := by
  cases runsAs i with
  | mmxByRm n rex d cnt hexec =>
    exact ⟨_, _, _, fun s => s.countMm _ cnt, _, fun s => congrFun hexec s, fun s t h _ => failAlike_countMm h _ _⟩
  | sseByRm n rex d cnt hexec =>
    exact ⟨_, _, _, fun s => s.countXmm true _ 1 (wideRm cnt), _, fun s => congrFun hexec s,
      fun s t h _ => failAlike_countXmm h _ _ _ _⟩
  | vexByRm n vl form d src cnt hexec =>
    exact ⟨_, _, _, fun s => s.countXmm false _ 1 (wideRm cnt), _, fun s => congrFun hexec s,
      fun s t h _ => failAlike_countXmm h _ _ _ _⟩
  | evexByRm lf n vl m d src cnt hexec =>
    exact ⟨_, _, _, fun s => s.countXmm false _ 16 cnt, _, fun s => congrFun hexec s,
      fun s t h _ => failAlike_countXmm h _ _ _ _⟩
  | evexFullMem lf n vl m d src imm hexec =>
    exact ⟨_, _, _, fun s => s.sourceFullMem vl _ src, _, fun s => congrFun hexec s,
      fun s t h _ => failAlike_sourceFullMem h _ _ _⟩
  | evexFull lf n vl m d src imm hexec =>
    exact ⟨_, _, _, fun s => s.sourceFull n vl _ m src, _, fun s => congrFun hexec s,
      fun s t h hk => failAlike_sourceFull h hk _ _ _ _ _⟩
  | mmxByImm n rex d imm hexec | sseByImm n rex d imm hexec | vexByImm n vl form d src imm hexec =>
    exact ⟨_, _, _, fun _ => .ok (), fun s _ => _, fun s => congrFun hexec s, fun _ _ _ _ _ => Iff.rfl⟩

/-! ### The first byte missing -/

/-- Bytes that stand at an address in front of one that cannot be fetched are all that is fetched there. -/
theorem fetchFrom_eq_of_holds_of_blocked {s : State} {a : Addr} {bs : List Byte} {n : Nat} (h : Holds s a bs)
    (hblocked : accessibleByte s.params .fetch (a + BitVec.ofNat 64 bs.length) = false) (hlen : bs.length < n) :
    s.fetchFrom a n = bs := by
  induction bs generalizing a n with
  | nil =>
    cases n with
    | zero => rfl
    | succ n =>
      have hfirst : accessibleByte s.params .fetch a = false := by simpa using hblocked
      simp [State.fetchFrom, hfirst]
  | cons b bs ih =>
    obtain ⟨hacc, hbyte, hrest⟩ := holds_cons h
    cases n with
    | zero => exact absurd hlen (Nat.not_lt_zero _)
    | succ n =>
      have hblocked' : accessibleByte s.params .fetch (a + 1#64 + BitVec.ofNat 64 bs.length) = false := by
        rwa [add_one_add_ofNat]
      simp [State.fetchFrom, hacc, hbyte, ih hrest hblocked' (Nat.lt_of_succ_lt_succ hlen)]

theorem step_of_blocked_rip {s : State} (h : accessibleByte s.params .fetch s.rip = false) :
    step s = .fault (.fetchFault s.rip) :=
  step_of_fetch_fault (by simp [State.fetch, h])

end Sys2Proof.Machine

namespace Sys2Proof.Claims

open Sys2Proof.Machine

/-- Settles O22: what completes has written its destination and moved `rip`. -/
theorem onlyTheDestinationIsWritten : Obligations.OnlyTheDestinationIsWritten := by
  intro i s t h
  obtain ⟨-, hdone⟩ := exec_next h
  cases hdone with
  | mm d v hdest _ heq =>
    subst heq
    simpa only [hdest] using onlyMm_setMm s d v i.len
  | vr d v hdest _ _ heq =>
    subst heq
    simpa only [hdest] using onlyVr_setVr s d v i.len

/-- Settles O28: no operand raises #UD, and it is the first enable check. -/
theorem invalidOpcodeExactlyOnItsCauses : Obligations.InvalidOpcodeExactlyOnItsCauses := by
  intro i s
  rw [exec_eq_fault_iff_enableFault (by simp [OperandFault]), enableFault_eq_some_iff, undefined_iff]
  simp

/-- Settles O29: no operand raises #NM or #MF, and they are the enable checks behind #UD. -/
theorem deviceChecksComeInOrder : Obligations.DeviceChecksComeInOrder := by
  intro i s
  rw [exec_eq_fault_iff_enableFault (by simp [OperandFault]), exec_eq_fault_iff_enableFault (by simp [OperandFault]),
    enableFault_eq_some_iff, enableFault_eq_some_iff, undefined_iff]
  simp [Instr.needs]

/-- Settles O34: a fault is one of the enable checks or one of the checks on the memory operand. -/
theorem rowsRaiseOnlyTheirClass : Obligations.RowsRaiseOnlyTheirClass := by
  intro i s x h
  obtain ⟨-, he⟩ | ⟨hpass, -⟩ := exec_fault h
  · exact faultOfClass_of_enableFault he
  · obtain ⟨acc, hacc, hraises⟩ := operandRaises_of_exec_fault (ready_iff_passes.2 hpass) h
    exact faultOfClass_of_operandRaises hacc hraises

/-- Settles O35: the enable checks ask the configuration, and the operand fails by its address. -/
theorem exceptionsIgnoreData : Obligations.ExceptionsIgnoreData := by
  intro i s t x h hk
  obtain ⟨w, regs, α, o, f, hexec, halike⟩ := exec_reads_operand_failing_alike i
  rw [hexec, hexec]
  refine enter_eq_fault_iff_of_params h.params w regs ?_
  rw [withOperand_eq_fault_iff, withOperand_eq_fault_iff]
  exact halike s t h hk x

/-- Settles O55: the bytes up to the missing one are all that is fetched, and a proper front part of an encoding has no
verdict. -/
theorem missingByteIsAFetchFault : Obligations.MissingByteIsAFetchFault := by
  refine ⟨fun s => step_of_blocked_rip, fun s i k hm hwf hk hholds hblocked => ?_⟩
  have hlen : ((encode i).take k).length = k := List.length_take_of_le hk.le
  have hmax : k < maxLen := hk.trans_le (encode_length_pos_le_maxLen i).2
  have hwindow : s.window = (encode i).take k :=
    fetchFrom_eq_of_holds_of_blocked hholds (hlen.symm ▸ hblocked) (hlen.trans_lt hmax)
  cases k with
  | zero =>
    rw [BitVec.add_zero] at hblocked ⊢
    exact step_of_blocked_rip hblocked
  | succ k =>
    obtain ⟨hfirst, -⟩ := hholds 0 (hlen.symm ▸ k.succ_pos)
    rw [BitVec.add_zero] at hfirst
    have hmore : decode s.window = .more := hwindow ▸ noEncodingIsThePrefixOfAnother i (k + 1) hwf hk
    obtain ⟨-, -, -, -, hverdict, -⟩ := verdictsBecomeOutcomes s hm hfirst
    have houtcome := hverdict hmore
    rw [hwindow, hlen] at houtcome
    obtain ⟨hfull, -⟩ | ⟨-, -, hstep⟩ := houtcome
    · exact absurd hfull hmax.ne
    · exact hstep

end Sys2Proof.Claims
end

section
/-! PROOFS. The fall-through of every instruction that completes. -/

namespace Sys2Proof.Machine

/-- A completed instruction of either kind of destination moves `rip` by the length its meaning takes: the register write leaves
`rip` alone (10_state.md rule R15). -/
theorem Completed.rip {i : Instr} {s t : State} (h : Completed i s t) : t.rip = s.rip + BitVec.ofNat 64 i.len := by
  cases h with
  | mm d v _ _ heq => rw [heq, advance_rip, setMm_rip]
  | vr d v _ _ _ heq => rw [heq, advance_rip, setVr_rip]

end Sys2Proof.Machine

namespace Sys2Proof.Claims

open Sys2Proof.Machine

/-- Settles O23: what completes moves `rip` by its length, which is the number of bytes of its encoding. -/
theorem completionFallsThrough : Obligations.CompletionFallsThrough := by
  intro i s t h
  obtain ⟨-, hdone⟩ := exec_next h
  rw [hdone.rip, encode_length]

end Sys2Proof.Claims
end

section
/-! PROOFS. FAULT_SUPPRESSION on the rows of tuple Full: which lanes of a source must be accessible, and what is written where none
is selected (20_memory.md rule R47; log entry 7). -/

namespace Sys2Proof.Machine

/-! ### The checks under FAULT_SUPPRESSION -/

theorem anySelected_eq_true_iff {s : State} {m : Mask} {k : Nat} :
    anySelected s m k = true ↔ ∃ j, j < k ∧ s.selected m j = true := by
  induction k with
  | zero => simp [anySelected]
  | succ k ih => rw [anySelected, Bool.or_eq_true, ih, Nat.exists_lt_succ_right, or_comm]

theorem fullAccess_suppressed_iff {s : State} {n vl : Nat} {m : Mask} {a : Addr} (h : s.params.faultSuppression = true) :
    fullAccess s n vl m a = true ↔ ∀ j, j < vl / n → s.selected m j = true →
      accessible s.params .data (a + BitVec.ofNat 64 (j * (n / 8))) (n / 8) = true := by
  rw [fullAccess, if_pos h, lanesAccessible_eq_true_iff]

theorem bcstAccess_suppressed_iff {s : State} {n vl : Nat} {m : Mask} {a : Addr} (h : s.params.faultSuppression = true) :
    bcstAccess s n vl m a = true ↔
      (∃ j, j < vl / n ∧ s.selected m j = true) → accessible s.params .data a (n / 8) = true := by
  rw [← anySelected_eq_true_iff]
  cases hany : anySelected s m (vl / n) <;> simp [bcstAccess, h, hany]

/-! ### What a row of tuple Full answers -/

/-- A row that runs as `evexFull` faults wherever its source does. -/
theorem exec_fault_of_sourceFull {s : State} {i : Instr} {lf : Feature} {n vl : Nat} {m : Mask} {d : BitVec 5} {src : Source}
    {imm : BitVec 8} {x : Fault} (hexec : exec i = evexFull lf n vl m d src imm) (hlen : i.len = evexLen src.len 1)
    (hr : Ready s i) (hx : s.sourceFull n vl i.len m src = .error x) : exec i s = .fault x := by
  have hbody := exec_of_ready hr (congrFun hexec s)
  rwa [← hlen, hx, withOperand_error] at hbody

/-- A lane the mask leaves out is zeroed or kept, whatever the result would have been (40_shift_core.md rule R94). -/
theorem underMask_of_not_selected {s : State} {n vl : Nat} {m : Mask} {d : BitVec 5} {result : Nat → BitVec n} {j : Nat}
    (h : s.selected m j = false) :
    underMask s n vl m d result j = if m.z = true then 0#n else lane n (s.view vl d) j :=
  if_neg fun hsel => Bool.eq_false_iff.1 h (selected_iff.2 hsel)

theorem VrEffect.congr_lanes {n vl : Nat} {d : BitVec 5} {value value' : Nat → BitVec n} {upper : Nat → Bool} {i : Instr}
    {s t : State} (h : VrEffect n vl d value upper i s t) (heq : ∀ j, j < vl / n → value j = value' j) :
    VrEffect n vl d value' upper i s t :=
  { h with lanes := fun j hj => (h.lanes j hj).trans (heq j hj) }

end Sys2Proof.Machine

namespace Sys2Proof.Claims

open Sys2Proof.Machine

/-- A row that runs as `evexFull` needs, with FAULT_SUPPRESSION, the selected lanes of a source in memory, and a broadcast element
where some lane is selected (rule R47; log entry 7). -/
theorem evexSuppressed_of_exec {lf : Feature} {n vl : Nat} {row : Mask → BitVec 5 → Source → BitVec 8 → Instr}
    (hvl : vl ≤ 512) (hn8 : 8 ∣ n) (hvl8 : 8 ∣ vl)
    (hexec : ∀ m d src imm, exec (row m d src imm) = evexFull lf n vl m d src imm)
    (hlen : ∀ m d src imm, (row m d src imm).len = evexLen src.len 1) : EvexSuppressed n vl row := by
  refine ⟨fun s m d a imm hr hsup => ?_, fun s m d a imm hr hsup => ?_⟩
  · rw [encode_length]
    refine ⟨fun hlanes => ?_, fun ⟨j, hj, hsel, hdenied⟩ => ?_⟩
    · exact exists_next_of_sourceFull hvl (hexec m d _ imm) (hlen m d _ imm) hr
        (if_pos ((fullAccess_suppressed_iff hsup).2 hlanes)) fun j hj => lane_memRead s hn8 hvl8 _ hj
    · refine exec_fault_of_sourceFull (hexec m d _ imm) (hlen m d _ imm) hr (if_neg fun hacc => ?_)
      exact Bool.eq_false_iff.1 hdenied ((fullAccess_suppressed_iff hsup).1 hacc j hj hsel)
  · rw [encode_length]
    refine ⟨fun hnone => ?_, fun hsome hdenied => ?_⟩
    · have hacc : bcstAccess s n vl m (s.ea (row m d (.bcst a) imm).len (n / 8) a) = true :=
        (bcstAccess_suppressed_iff hsup).2 fun ⟨j, hj, hsel⟩ => absurd hsel (Bool.eq_false_iff.1 (hnone j hj))
      obtain ⟨t, hnext, heffect⟩ := exists_next_of_sourceFull hvl (hexec m d _ imm) (hlen m d _ imm) hr (if_pos hacc)
        fun j hj => lane_broadcast vl _ j hj
      exact ⟨t, hnext, heffect.congr_lanes fun j hj => underMask_of_not_selected (hnone j hj)⟩
    · refine exec_fault_of_sourceFull (hexec m d _ imm) (hlen m d _ imm) hr (if_neg fun hacc => ?_)
      exact Bool.eq_false_iff.1 hdenied ((bcstAccess_suppressed_iff hsup).1 hacc hsome)

/-- Settles O13: the six rows run as the one EVEX operation on a tuple Full source, at their lane widths and vector lengths. -/
theorem suppressedLanesDoNotFault : Obligations.SuppressedLanesDoNotFault :=
  ⟨evexSuppressed_of_exec (by decide) (by decide) (by decide) (fun _ _ _ _ => rfl) fun _ _ _ _ => rfl,
    evexSuppressed_of_exec (by decide) (by decide) (by decide) (fun _ _ _ _ => rfl) fun _ _ _ _ => rfl,
    evexSuppressed_of_exec (by decide) (by decide) (by decide) (fun _ _ _ _ => rfl) fun _ _ _ _ => rfl,
    evexSuppressed_of_exec (by decide) (by decide) (by decide) (fun _ _ _ _ => rfl) fun _ _ _ _ => rfl,
    evexSuppressed_of_exec (by decide) (by decide) (by decide) (fun _ _ _ _ => rfl) fun _ _ _ _ => rfl,
    evexSuppressed_of_exec (by decide) (by decide) (by decide) (fun _ _ _ _ => rfl) fun _ _ _ _ => rfl⟩

end Sys2Proof.Claims
end

section
/-! PROOFS. The laws that 40_shift_core.md rule R91 derives for the lane function, and little-endian reads byte by byte. -/

namespace Sys2Proof.Machine

/-! ### The lane function as an integer -/

/-- Shifting divides the signed value and rounds toward minus infinity (rule R91 law 1). -/
theorem toInt_sra {n : Nat} (x : BitVec n) (c : Nat) (hn : 0 < n) : (sra x c).toInt = x.toInt / 2 ^ c := by
  rw [sra_eq_sshiftRight x c hn, BitVec.toInt_sshiftRight, Int.shiftRight_eq_div_pow, Nat.cast_pow, Nat.cast_ofNat]

/-- From a shift by one less than the width on, every bit is the sign (rule R90). -/
theorem sra_eq_sra_sub_one {n c : Nat} (x : BitVec n) (hc : n - 1 ≤ c) : sra x c = sra x (n - 1) := by
  refine BitVec.eq_of_getLsbD_eq fun i hi => ?_
  rw [getLsbD_sra x c i hi, getLsbD_sra x (n - 1) i hi]
  obtain rfl | hpos := Nat.eq_zero_or_pos i
  · have hsign : x.getLsbD (n - 1) = x.msb := (BitVec.msb_eq_getLsbD_last x).symm
    obtain rfl | hlt := Nat.eq_or_lt_of_le hc
    · rfl
    · rw [if_neg (by omega), if_pos (by omega), Nat.add_zero, hsign]
  · rw [if_neg (by omega), if_neg (by omega)]

/-- The count saturates (rule R91 law 2). -/
theorem sra_min (n c : Nat) (x : BitVec n) : sra x (min c (n - 1)) = sra x c := by
  obtain hle | hge := Nat.le_total c (n - 1)
  · rw [Nat.min_eq_left hle]
  · rw [Nat.min_eq_right hge, sra_eq_sra_sub_one x hge]

/-- Shifts compose (rule R91 law 5). -/
theorem sra_sra {n : Nat} (x : BitVec n) (a b : Nat) (hn : 0 < n) : sra (sra x a) b = sra x (a + b) := by
  rw [sra_eq_sshiftRight _ _ hn, sra_eq_sshiftRight _ _ hn, sra_eq_sshiftRight _ _ hn, BitVec.sshiftRight_add]

/-- A quotient of a number not negative lies between 0 and it (rule R91 law 4). -/
theorem toInt_sra_of_nonneg {n : Nat} {x : BitVec n} (c : Nat) (hn : 0 < n) (hx : 0 ≤ x.toInt) :
    0 ≤ (sra x c).toInt ∧ (sra x c).toInt ≤ x.toInt := by
  rw [toInt_sra x c hn]
  exact ⟨Int.ediv_nonneg hx (by positivity), Int.ediv_le_self _ hx⟩

/-- A quotient of a negative number, rounded down, lies between it and -1 (rule R91 law 4). -/
theorem toInt_sra_of_neg {n : Nat} {x : BitVec n} (c : Nat) (hn : 0 < n) (hx : x.toInt < 0) :
    x.toInt ≤ (sra x c).toInt ∧ (sra x c).toInt ≤ -1 := by
  have hpow : (1 : Int) ≤ 2 ^ c := one_le_pow₀ (by decide)
  rw [toInt_sra x c hn]
  exact ⟨Int.le_ediv_of_mul_le (by omega) (by simpa using mul_le_mul_of_nonpos_left hpow hx.le),
    Int.le_sub_one_of_lt (Int.ediv_neg_of_neg_of_pos hx (by omega))⟩

/-! ### Reads -/

/-- A lane of one byte in memory is the byte there. -/
theorem memLane_eight (s : State) (a : Addr) (i : Nat) : memLane s 8 a i = s.byteAt (a + BitVec.ofNat 64 i) := by
  simp [memLane, State.readLE]

theorem byte_memRead (s : State) (a : Addr) {n i : Nat} (hi : i < n) :
    (s.memRead (8 * n) a).extractLsb' (8 * i) 8 = s.byteAt (a + BitVec.ofNat 64 i) := by
  have hlane : i < 8 * n / 8 := by omega
  exact (lane_memRead s (Nat.dvd_refl 8) (Nat.dvd_mul_right 8 n) a hlane).trans (memLane_eight s a i)

end Sys2Proof.Machine

namespace Sys2Proof.Claims

open Sys2Proof.Machine

/-- Settles O16: the shift divides with rounding down, at every width but 0. -/
theorem laneShiftIsFloorDivision : Obligations.LaneShiftIsFloorDivision := by
  intro n hn x c
  exact toInt_sra x c (by omega)

/-- Settles O17: saturation by the bits, composition by the library's shift, the bounds by the division of O16. -/
theorem laneShiftSaturatesAndComposes : Obligations.LaneShiftSaturatesAndComposes := by
  intro n hn x a b
  have hpos : 0 < n := by omega
  exact ⟨(sra_min n a x).symm, sra_sra x a b hpos, toInt_sra_of_nonneg a hpos, toInt_sra_of_neg a hpos⟩

/-- Settles O18: a byte of the value is a lane of 8 bits of it, and the check comes before the read. -/
theorem readsAreLittleEndian : Obligations.ReadsAreLittleEndian := by
  intro s a n _
  have hbytes : 8 * n / 8 = n := Nat.mul_div_cancel_left n (by decide)
  refine ⟨fun i hi => byte_memRead s a hi, fun hacc => load_ok (hbytes.symm ▸ hacc), fun hdenied => ?_⟩
  have herr := load_error (w := 8 * n) (hbytes.symm ▸ hdenied)
  rwa [hbytes] at herr

end Sys2Proof.Claims
end

section
/-! PROOFS. RFLAGS and MXCSR carried along, the processors on which no instruction is refused, and words of the spec's listing. -/

namespace Sys2Proof.Machine

/-! ### RFLAGS and MXCSR -/

/-- Replacing RFLAGS and MXCSR is carried along. -/
theorem carriedAlong_flags (f : BitVec 64) (x : BitVec 32) : CarriedAlong fun t => { t with rflags := f, mxcsr := x } :=
  ⟨fun _ => ⟨rfl, rfl, rfl, rfl⟩, fun _ _ _ _ => rfl, fun _ _ _ _ => rfl⟩

/-! ### What rule R5's defaults give the features -/

theorem maxVl_bits_ge (v : MaxVl) : 128 ≤ v.bits := by cases v <;> decide

theorem maskWidth_bits_ge (k : MaskWidth) : 16 ≤ k.bits := by cases k <;> decide

theorem defaultMaxVl_of_avx {f : Features} (h : f.avx = true) : 256 ≤ f.defaultMaxVl.bits := by
  unfold Features.defaultMaxVl
  rw [h]
  split <;> decide

theorem defaultMaxVl_of_avx512f {f : Features} (h : f.avx512f = true) : f.defaultMaxVl.bits = 512 := by
  rw [Features.defaultMaxVl, h]
  rfl

theorem defaultKw_of_avx512bw {f : Features} (h : f.avx512bw = true) : f.defaultKw.bits = 64 := by
  rw [Features.defaultKw, h]
  rfl

theorem nestedFeatures_iff {f : Features} :
    nestedFeatures f = true ↔ (f.avx2 = true → f.avx = true) ∧ (f.avx512bw = true → f.avx512f = true) := by
  cases h2 : f.avx2 <;> cases hbw : f.avx512bw <;> simp [nestedFeatures, h2, hbw]

theorem defaultWidths_iff {p : Params} :
    defaultWidths p = true ↔ p.maxvl = p.feat.defaultMaxVl ∧ p.nvr = p.feat.defaultNvr p.mode ∧
      p.kw = p.feat.defaultKw ∧ p.nmm = defaultNmm ∧ p.nk = defaultNk := by
  simp only [defaultWidths, Bool.and_eq_true, beq_iff_eq, and_assoc]

/-! ### What the features of a row say about its widths -/

/-- The vector and the opmask bits a row works on, bounded by a feature the row names. -/
inductive WidthsByFeature (i : Instr) : Prop
  | any (hvl : i.vl ≤ 128) (hmask : i.maskBits ≤ 16)
  | avx2 (hfeat : .avx2 ∈ i.features) (hvl : i.vl ≤ 256) (hmask : i.maskBits ≤ 16)
  | avx512f (hfeat : .avx512f ∈ i.features) (hvl : i.vl ≤ 512) (hmask : i.maskBits ≤ 16)
  | avx512bw (hfeat : .avx512bw ∈ i.features) (hvl : i.vl ≤ 512) (hmask : i.maskBits ≤ 64)

theorem maskBits_le_of_no_mask {i : Instr} {bound : Nat} (h : i.mask = none) : i.maskBits ≤ bound := by
  rw [Instr.maskBits, h]
  exact Nat.zero_le bound

theorem maskBits_le_of_mask {i : Instr} {m : Mask} {lanes bound : Nat} (h : i.mask = some (m, lanes))
    (hle : lanes ≤ bound) : i.maskBits ≤ bound := by
  rw [Instr.maskBits, h]
  exact (ite_le_sup 0 lanes _).trans (max_le (Nat.zero_le bound) hle)

theorem widthsByFeature (i : Instr) : WidthsByFeature i := by
  cases i with
  | psrawMmRm | psrawMmImm | psradMmRm | psradMmImm | psrawXmmRm | psrawXmmImm | psradXmmRm | psradXmmImm
  | vpsrawXmmRm | vpsrawXmmImm | vpsradXmmRm | vpsradXmmImm =>
    exact .any (by simp [Instr.vl]) (maskBits_le_of_no_mask rfl)
  | vpsrawYmmRm | vpsrawYmmImm | vpsradYmmRm | vpsradYmmImm =>
    exact .avx2 (by simp [Instr.features]) (by simp [Instr.vl]) (maskBits_le_of_no_mask rfl)
  | evpsrawXmmRm | evpsrawYmmRm | evpsrawZmmRm | evpsrawXmmImm | evpsrawYmmImm | evpsrawZmmImm =>
    exact .avx512bw (by simp [Instr.features]) (by simp [Instr.vl]) (maskBits_le_of_mask rfl (by decide))
  | evpsradXmmRm | evpsradYmmRm | evpsradZmmRm | evpsradXmmImm | evpsradYmmImm | evpsradZmmImm | evpsraqXmmRm
  | evpsraqYmmRm | evpsraqZmmRm | evpsraqXmmImm | evpsraqYmmImm | evpsraqZmmImm =>
    exact .avx512f (by simp [Instr.features]) (by simp [Instr.vl]) (maskBits_le_of_mask rfl (by decide))

/-- With nested features the defaults of rule R5 are wide enough for every row whose features are there. -/
theorem widths_le_defaults {f : Features} {i : Instr} (hnested : nestedFeatures f = true)
    (hfeat : ∀ x ∈ i.features, f.has x = true) : i.vl ≤ f.defaultMaxVl.bits ∧ i.maskBits ≤ f.defaultKw.bits := by
  obtain ⟨havx, hf⟩ := nestedFeatures_iff.1 hnested
  have hkw := maskWidth_bits_ge f.defaultKw
  cases widthsByFeature i with
  | any hvl hmask => exact ⟨hvl.trans (maxVl_bits_ge _), hmask.trans hkw⟩
  | avx2 hmem hvl hmask => exact ⟨hvl.trans (defaultMaxVl_of_avx (havx (hfeat _ hmem))), hmask.trans hkw⟩
  | avx512f hmem hvl hmask => exact ⟨hvl.trans (defaultMaxVl_of_avx512f (hfeat _ hmem)).ge, hmask.trans hkw⟩
  | avx512bw hmem hvl hmask =>
    exact ⟨hvl.trans (defaultMaxVl_of_avx512f (hf (hfeat _ hmem))).ge,
      hmask.trans (defaultKw_of_avx512bw (hfeat _ hmem)).ge⟩

/-- On a processor with rule R5's defaults and nested features, the registers of every row whose features are there exist. -/
theorem viewsPresent_of_defaults {p : Params} {i : Instr} (hwidths : defaultWidths p = true)
    (hnested : nestedFeatures p.feat = true) (hfeat : ∀ x ∈ i.features, p.feat.has x = true) : ViewsPresent p i := by
  obtain ⟨hmaxvl, -, hkw, hnmm, hnk⟩ := defaultWidths_iff.1 hwidths
  obtain ⟨hvl, hmask⟩ := widths_le_defaults hnested hfeat
  exact ⟨hmaxvl ▸ hvl, hkw ▸ hmask, fun r _ => hnmm ▸ r.isLt, fun r _ => hnk ▸ r.isLt⟩

theorem has_of_not_undefined {p : Params} {i : Instr} (h : ¬ Undefined p i) : ∀ x ∈ i.features, p.feat.has x = true :=
  fun x hx => Bool.of_not_eq_false fun hoff => h (.inl ⟨x, hx, hoff⟩)

end Sys2Proof.Machine

namespace Sys2Proof.Claims

open Sys2Proof.Machine

/-- Settles O24: RFLAGS and MXCSR enter neither an address nor a mask, so the change is carried along. -/
theorem flagsAreNeitherReadNorWritten : Obligations.FlagsAreNeitherReadNorWritten := by
  intro i s f x
  have hea : SameAddress s { s with rflags := f, mxcsr := x } i.access := fun acc _ len => by cases acc.mem <;> rfl
  exact exec_carried (carriedAlong_flags f x) hea fun _ _ _ _ _ => rfl

/-- Settles O37: of the two refusals of O36, one is of the other mode, and the defaults leave no register view absent. -/
theorem consistentProcessorsNeverRefuse : Obligations.ConsistentProcessorsNeverRefuse := by
  intro i s r hwidths hnested hmode h
  obtain ⟨h32, -⟩ | ⟨-, hdefined, -, -, habsent, -⟩ := (executionIsRefusedOnlyHere i s r).1 h
  · rw [hmode] at h32
    cases h32
  · exact habsent (viewsPresent_of_defaults hwidths hnested (has_of_not_undefined hdefined))

/-- Settles O45: each word run through the decoder. -/
theorem listedWordsDecode : Obligations.ListedWordsDecode :=
  ⟨by decide, by decide, by decide, by decide, by decide⟩

end Sys2Proof.Claims
end
